-- ==== Sys2Proof/Word.lean ====
section
/-! DEFINITION. The two word types of the block: a byte (R9) and the 19-bit host command word (R57). -/

namespace Sys2Proof

/-- A byte of a frame: unsigned, bit 0 least significant (R8, R9). -/
abbrev Byte := BitVec 8

/-- A host command word of format `H19` (R57). -/
abbrev HostWord := BitVec 19

/-- A frame: a finite string of bytes, offset 0 first (R9). -/
abbrev Frame := List Byte

end Sys2Proof
end

