-- ==== Sys2Proof/Syntax.lean ====
section
/-! DEFINITION. The names of the spec (frame ids, operations, response classes, transport answers) and the ONE
instruction type: a constructor for every row of spec/opcode_table.json. -/

namespace Sys2Proof

/-- Frame ids 0 to 7 (R61). -/
inductive Fid where
  | pollD | pollA | enterCfg | setAnalog | enableMotor | cfgPressure | exitCfg | setDigital
deriving DecidableEq, Repr, Inhabited

/-- The six host operations (R3, R58); the value the latch `cur_op` holds (R23). -/
inductive Op where
  | connect | disconnect | isConnected | poll | enableAnalog | disableAnalog
deriving DecidableEq, Repr, Inhabited

/-- What the discriminator decoder makes of a received frame (R5, R93). -/
inductive RespClass where
  | digital | analog | unexpected
deriving DecidableEq, Repr, Inhabited

/-- The transport's answer to one exchange: `Fail` or `Ok(rx)` (R7, R49, R51). -/
inductive Answer where
  | fail
  | ok (rx : Frame)
deriving DecidableEq, Repr, Inhabited

/-- The instructions: one constructor per row of spec/opcode_table.json (R5, R75).
The operand fields `a`, `b` of the host word are carried by every host operation, because acceptance latches them
whatever the opcode (R59, R123). -/
inductive Instr where
  /-- `CONNECT`, opcode 0 (R86). -/
  | connect (a b : Byte)
  /-- `DISCONNECT`, opcode 1 (R87). -/
  | disconnect (a b : Byte)
  /-- `IS_CONNECTED`, opcode 2 (R88). -/
  | isConnected (a b : Byte)
  /-- `POLL a, b`, opcode 3: `a` = rumble_left, `b` = rumble_right (R90). -/
  | poll (a b : Byte)
  /-- `ENABLE_ANALOG`, opcode 4 (R112). -/
  | enableAnalog (a b : Byte)
  /-- `DISABLE_ANALOG`, opcode 5 (R113). -/
  | disableAnalog (a b : Byte)
  /-- `POLL0`, the pseudo-operation `poll` with no operands (R74, R91). -/
  | poll0
  /-- Opcodes 6 (`odd = false`) and 7 (`odd = true`), which name no operation (R70). -/
  | reserved (odd : Bool) (a b : Byte)
  /-- Wire frame 0, digital poll (R77). -/
  | fPollD
  /-- Wire frame 1, analog poll (R78). -/
  | fPollA
  /-- Wire frame 2, enter config (R79). -/
  | fEnterCfg
  /-- Wire frame 3, enable analog (R80). -/
  | fSetAnalog
  /-- Wire frame 4, enable motor commands (R81). -/
  | fEnableMotor
  /-- Wire frame 5, configure pressure (R82). -/
  | fCfgPressure
  /-- Wire frame 6, exit config (R83). -/
  | fExitCfg
  /-- Wire frame 7, disable-analog selection (R84). -/
  | fSetDigital
  /-- A received poll frame whose discriminator is `0x41` (R93). -/
  | respDigital (rx : Frame)
  /-- A received poll frame whose discriminator is `0x73` (R93). -/
  | respAnalog (rx : Frame)
  /-- A received poll frame with any other discriminator (R93, R95). -/
  | respUnexpected (rx : Frame)
deriving DecidableEq, Repr

/-- The three kinds of encoded material, told apart by where they travel: a host word, a transmitted frame, a
received poll frame (R56). -/
inductive Words where
  | h19 (w : HostWord)
  | tx (f : Frame)
  | rx (f : Frame)
deriving DecidableEq, Repr

/-- Why bytes are no instruction. -/
inductive DecodeError where
  /-- The transport answered `Fail`: there are no bytes to examine (R139, R143). -/
  | transportFail
  /-- The transport answered with a string of another length than was asked for (R41). -/
  | wrongLength (got : Nat)
  /-- A transmitted string that is none of the eight frames (R72). -/
  | notAFrame
deriving DecidableEq, Repr

end Sys2Proof
end

