-- ==== Sys2Proof/Config.lean ====
section
/-! DEFINITION. The parameters of R6 that an integration may choose, as plain data, and the four that no source gives
a value (OPEN), as constants without a body. -/

namespace Sys2Proof

/-- A value of the parameter `VALIDATE` (R114) as plain data: the (frame id, response) pairs it answers false on.
Since the validator is only ever consulted on a response as long as its frame, every validator is of this form
(DESIGN CHOICE, log entry 5). -/
structure Validator where
  rejects : List (Fid × Frame)
deriving DecidableEq, Repr, Inhabited

/-- `TRANSPORT_BIT_ORDER` (R42, R48). -/
inductive BitOrder where
  | msbFirst | lsbFirst
deriving DecidableEq, Repr

/-- The parameters of R6 marked DEFAULT or OPEN: fixed for a run, the same for every operation (R21). -/
structure Params where
  /-- `POLL_A_PAD`, the byte at offsets 5 to 20 of `F_POLL_A` (R62). -/
  pollAPad : Byte
  /-- `CMD_SET_DIGITAL`, the nine bytes of frame 7 (R84). -/
  cmdSetDigital : Vector Byte 9
  /-- `ANALOG_MAP`: entry `i` is the analog register that response offset `5 + i` is copied to (R103). -/
  analogMap : Vector (Fin 16) 16
  /-- `CONNECT_PROBE` (R86). -/
  connectProbe : Bool
  /-- `VALIDATE` (R114). -/
  validator : Validator
  /-- `STEP_DELAY` (R115), unit not given. -/
  stepDelay : Nat
  /-- `TRANSPORT_MODE`, opaque; no rule reads it (R48, R154). -/
  transportMode : Nat
  /-- `TRANSPORT_FREQ`, opaque; no rule reads it (R48, R154). -/
  transportFreq : Nat
deriving DecidableEq, Repr

/-- The validator an integration supplies: OPEN, no source gives one (R6, R114). Log entry 1. -/
opaque Config.validator : Validator

/-- The settling delay an integration supplies: OPEN, no source gives one (R6, R115). Log entry 1. -/
opaque Config.stepDelay : Nat

/-- The transport's clock mode: OPEN (R6, R48). Log entry 1. -/
opaque Config.transportMode : Nat

/-- The transport's frequency: OPEN (R6, R48). Log entry 1. -/
opaque Config.transportFreq : Nat

/-- The bit order the source fixes; no rule reads it (R42). -/
def Config.transportBitOrder : BitOrder := .msbFirst

end Sys2Proof
end

