-- ==== Sys2Proof/Decode.lean ====
section
/-! DEFINITION. The encoding tables (R56 to R75), the default parameter values (R6), the decoder and the encoder. -/

namespace Sys2Proof

/-! ### Constants of R6 -/

/-- `DISC_DIGITAL` (R6, R66). -/
def discDigital : Byte := 0x41#8

/-- `DISC_ANALOG` (R6, R66). -/
def discAnalog : Byte := 0x73#8

/-- `LEN_DIGITAL` (R6). -/
def lenDigital : Nat := 5

/-- `LEN_ANALOG` (R6). -/
def lenAnalog : Nat := 21

/-- `MAX_FRAME`, the longest exchange (R6). -/
def maxFrame : Nat := 21

/-- The default of every parameter that has one (R6; three of them PRESUMED by the spec, log entry 13), and the open
constants for the others (log entry 1). -/
def Params.default : Params where
  pollAPad := 0x00#8
  cmdSetDigital := #v[0x01#8, 0x44#8, 0x00#8, 0x00#8, 0x03#8, 0x00#8, 0x00#8, 0x00#8, 0x00#8]
  analogMap := #v[0, 1, 2, 3, 4, 5, 6, 7, 8, 9, 10, 11, 12, 13, 14, 15]
  connectProbe := true
  validator := Config.validator
  stepDelay := Config.stepDelay
  transportMode := Config.transportMode
  transportFreq := Config.transportFreq

/-! ### Wire frames -/

/-- All frame ids, in the order of R61. -/
def Fid.all : List Fid :=
  [.pollD, .pollA, .enterCfg, .setAnalog, .enableMotor, .cfgPressure, .exitCfg, .setDigital]

/-- The number of a frame id (R61). -/
def Fid.code : Fid → Nat
  | .pollD => 0
  | .pollA => 1
  | .enterCfg => 2
  | .setAnalog => 3
  | .enableMotor => 4
  | .cfgPressure => 5
  | .exitCfg => 6
  | .setDigital => 7

/-- The exchange length a frame id fixes (R61, R69). -/
def Fid.len : Fid → Nat
  | .pollD => lenDigital
  | .pollA => lenAnalog
  | .enterCfg => 5
  | .setAnalog => 9
  | .enableMotor => 9
  | .cfgPressure => 9
  | .exitCfg => 9
  | .setDigital => 9

/-- The frame ROM, address space (1) of R31: the bytes of each frame id (R62). -/
def rom (p : Params) : Fid → Frame
  | .pollD => [0x01#8, 0x42#8, 0x00#8, 0x00#8, 0x00#8]
  | .pollA => [0x01#8, 0x42#8, 0x00#8, 0x00#8, 0x00#8] ++ List.replicate 16 p.pollAPad
  | .enterCfg => [0x01#8, 0x43#8, 0x00#8, 0x01#8, 0x00#8]
  | .setAnalog => [0x01#8, 0x44#8, 0x00#8, 0x01#8, 0x03#8, 0x00#8, 0x00#8, 0x00#8, 0x00#8]
  | .enableMotor => [0x01#8, 0x4D#8, 0x00#8, 0x00#8, 0x01#8, 0xFF#8, 0xFF#8, 0xFF#8, 0xFF#8]
  | .cfgPressure => [0x01#8, 0x4F#8, 0x00#8, 0xFF#8, 0xFF#8, 0x03#8, 0x00#8, 0x00#8, 0x00#8]
  | .exitCfg => [0x01#8, 0x43#8, 0x00#8, 0x00#8, 0x5A#8, 0x5A#8, 0x5A#8, 0x5A#8, 0x5A#8]
  | .setDigital => p.cmdSetDigital.toList

/-- The instruction that sends a frame (R76). -/
def Fid.instr : Fid → Instr
  | .pollD => .fPollD
  | .pollA => .fPollA
  | .enterCfg => .fEnterCfg
  | .setAnalog => .fSetAnalog
  | .enableMotor => .fEnableMotor
  | .cfgPressure => .fCfgPressure
  | .exitCfg => .fExitCfg
  | .setDigital => .fSetDigital

/-- A transmitted string is the frame whose ROM bytes it is, or no frame at all (R72). -/
def decodeTx (p : Params) (f : Frame) : Except DecodeError Instr :=
  match Fid.all.find? (fun fid => rom p fid == f) with
  | some fid => .ok fid.instr
  | none => .error .notAFrame

/-! ### Host words -/

/-- The opcode of an operation (R58). -/
def Op.code : Op → BitVec 3
  | .connect => 0#3
  | .disconnect => 1#3
  | .isConnected => 2#3
  | .poll => 3#3
  | .enableAnalog => 4#3
  | .disableAnalog => 5#3

/-- The instruction of an operation (R58). -/
def Op.instr (op : Op) (a b : Byte) : Instr :=
  match op with
  | .connect => .connect a b
  | .disconnect => .disconnect a b
  | .isConnected => .isConnected a b
  | .poll => .poll a b
  | .enableAnalog => .enableAnalog a b
  | .disableAnalog => .disableAnalog a b

/-- Field `op`, bits 18:16 (R57). -/
def h19Op (w : HostWord) : BitVec 3 := w.extractLsb' 16 3

/-- Field `a`, bits 15:8 (R57). -/
def h19A (w : HostWord) : Byte := w.extractLsb' 8 8

/-- Field `b`, bits 7:0 (R57). -/
def h19B (w : HostWord) : Byte := w.extractLsb' 0 8

/-- The word with the given fields (R57). -/
def h19Word (op : BitVec 3) (a b : Byte) : HostWord := op ++ a ++ b

/-- Decoding of a host word, on `op` alone (R58, R123). Word `0x30000` is `POLL 0, 0`: the pseudo-operation has no
word of its own (R75). -/
def decodeH19 (w : HostWord) : Instr :=
  let a := h19A w
  let b := h19B w
  match (h19Op w).toNat with
  | 0 => .connect a b
  | 1 => .disconnect a b
  | 2 => .isConnected a b
  | 3 => .poll a b
  | 4 => .enableAnalog a b
  | 5 => .disableAnalog a b
  | 6 => .reserved false a b
  | _ => .reserved true a b

/-! ### Response frames -/

/-- The discriminator decoder `Classify`, a function of the one byte (R66, R93). -/
def classify (d : Byte) : RespClass :=
  if d = discDigital then .digital
  else if d = discAnalog then .analog
  else .unexpected

/-- The instruction a response class stands for (R5). -/
def RespClass.instr (cls : RespClass) (rx : Frame) : Instr :=
  match cls with
  | .digital => .respDigital rx
  | .analog => .respAnalog rx
  | .unexpected => .respUnexpected rx

/-- The bytes of an answer to an exchange of `n` bytes; `Fail` and a string of another length give none (R41, R143). -/
def Answer.bytes (n : Nat) : Answer → Except DecodeError Frame
  | .fail => .error .transportFail
  | .ok rx => if rx.length = n then .ok rx else .error (.wrongLength rx.length)

/-- Classification of a received string by its byte at offset 1 (R93). -/
def classifyFrame (rx : Frame) : Except DecodeError Instr :=
  match rx[1]? with
  | some d => .ok ((classify d).instr rx)
  | none => .error (.wrongLength rx.length)

/-- Decoding of the answer to a poll exchange of `n` bytes: length first, then the discriminator (R143). -/
def decodeRx (n : Nat) (r : Answer) : Except DecodeError Instr :=
  match r.bytes n with
  | .ok rx => classifyFrame rx
  | .error e => .error e

/-! ### The decoder and the encoder as a pair -/

/-- The decoder, total on any material: each refusal has a name. -/
def decode (p : Params) : Words → Except DecodeError Instr
  | .h19 w => .ok (decodeH19 w)
  | .tx f => decodeTx p f
  | .rx f => if f.length = lenDigital ∨ f.length = lenAnalog then classifyFrame f else .error (.wrongLength f.length)

/-- The encoder, from the same tables (R57, R58, R62, R65). -/
def encode (p : Params) : Instr → Words
  | .connect a b => .h19 (h19Word Op.connect.code a b)
  | .disconnect a b => .h19 (h19Word Op.disconnect.code a b)
  | .isConnected a b => .h19 (h19Word Op.isConnected.code a b)
  | .poll a b => .h19 (h19Word Op.poll.code a b)
  | .enableAnalog a b => .h19 (h19Word Op.enableAnalog.code a b)
  | .disableAnalog a b => .h19 (h19Word Op.disableAnalog.code a b)
  | .poll0 => .h19 (h19Word Op.poll.code 0#8 0#8)
  | .reserved odd a b => .h19 (h19Word (if odd then 7#3 else 6#3) a b)
  | .fPollD => .tx (rom p .pollD)
  | .fPollA => .tx (rom p .pollA)
  | .fEnterCfg => .tx (rom p .enterCfg)
  | .fSetAnalog => .tx (rom p .setAnalog)
  | .fEnableMotor => .tx (rom p .enableMotor)
  | .fCfgPressure => .tx (rom p .cfgPressure)
  | .fExitCfg => .tx (rom p .exitCfg)
  | .fSetDigital => .tx (rom p .setDigital)
  | .respDigital rx => .rx rx
  | .respAnalog rx => .rx rx
  | .respUnexpected rx => .rx rx

/-- Expansion of the pseudo-operation: `POLL0` is `POLL 0, 0` (R74, R91); every other instruction is itself. -/
def Instr.expand : Instr → Instr
  | .poll0 => .poll 0#8 0#8
  | i => i

/-! ### The opcode table's numbering of bits -/

/-- The bytes of a number, the least significant first. -/
def bytesOfNat : Nat → Nat → Frame
  | 0, _ => []
  | k + 1, w => BitVec.ofNat 8 w :: bytesOfNat k (w / 256)

/-- The instruction the decoder reads from a row of spec/opcode_table.json. A row of up to 32 bits is a host word
(format `H19` has 19 bits; those above are no part of it and must be 0); a longer one is a string of bytes, offset 0
first, read as a transmitted frame where it is one and else as a received poll frame (DESIGN CHOICE, log entry 10). -/
def decodeTableWord (nbits w : Nat) : Option Instr :=
  if nbits ≤ 32 then
    if w < 2 ^ 19 then some (decodeH19 (BitVec.ofNat 19 w)) else none
  else
    match decode Params.default (.tx (bytesOfNat (nbits / 8) w)) with
    | .ok i => some i
    | .error _ =>
      match decode Params.default (.rx (bytesOfNat (nbits / 8) w)) with
      | .ok i => some i
      | .error _ => none

end Sys2Proof
end

