-- ==== Sys2Proof/WellFormed.lean ====
section
/-! DEFINITION. Which instructions are well formed as syntax, and which parameter values R6 admits. -/

namespace Sys2Proof

/-- A received poll frame has 5 or 21 bytes (R65) and the discriminator at offset 1 that its class names (R93). -/
def wfRx (cls : RespClass) (rx : Frame) : Bool :=
  (rx.length == lenDigital || rx.length == lenAnalog) && (rx[1]?.map classify == some cls)

/-- Every word of a host operation and every frame is well formed; a response instruction is checked by `wfRx`. -/
def Instr.wf : Instr → Bool
  | .connect _ _ => true
  | .disconnect _ _ => true
  | .isConnected _ _ => true
  | .poll _ _ => true
  | .enableAnalog _ _ => true
  | .disableAnalog _ _ => true
  | .poll0 => true
  | .reserved _ _ _ => true
  | .fPollD => true
  | .fPollA => true
  | .fEnterCfg => true
  | .fSetAnalog => true
  | .fEnableMotor => true
  | .fCfgPressure => true
  | .fExitCfg => true
  | .fSetDigital => true
  | .respDigital rx => wfRx .digital rx
  | .respAnalog rx => wfRx .analog rx
  | .respUnexpected rx => wfRx .unexpected rx

/-- `ANALOG_MAP` is a bijection that sends offset 7 to `ANA[2]` and offset 19 to `ANA[14]` (R6, R103). -/
def Params.wf (p : Params) : Bool :=
  decide p.analogMap.toList.Nodup && (p.analogMap.get 2 == 2) && (p.analogMap.get 14 == 14)

/-- The bytes of `CMD_SET_DIGITAL` are not those of another nine-byte frame, so that a transmitted string names its
frame. The default has this property; R84 leaves the bytes to the integration. -/
def Params.framesDistinct (p : Params) : Bool :=
  [Fid.setAnalog, .enableMotor, .cfgPressure, .exitCfg].all (fun f => rom p f != rom p .setDigital)

end Sys2Proof
end

