-- ==== Sys2Proof/Machine/State.lean ====
section
/-! DEFINITION. The state of the block (R12), the inputs it waits for, the ghost records of R11 and R141, the reset
state (R30), and the reasons a step can stop. -/

namespace Sys2Proof.Machine

/-- `fsm` (R22, R121): the three legal states. -/
inductive Fsm where
  | idle | xfer | delay
deriving DecidableEq, Repr

/-- The two bits of `fsm` (R22). -/
def Fsm.code : Fsm → BitVec 2
  | .idle => 0#2
  | .xfer => 1#2
  | .delay => 2#2

/-- The snapshot `SNAP` (R12 to R18). -/
structure Snap where
  /-- `DV`, `digital_valid` (R15). -/
  dv : Bool
  /-- `AV`, `analog_valid` (R15). -/
  av : Bool
  /-- `BTN[0..15]`, 1 = pressed (R13). -/
  btn : Vector Bool 16
  /-- `ANA[0..15]`, unsigned bytes (R14). -/
  ana : Vector Byte 16
deriving DecidableEq, Repr

/-- The value of a `Ret` (R7, R60). -/
inductive RetVal where
  | none
  | bool (v : Bool)
  | snap (v : Snap)
deriving DecidableEq, Repr

/-- Interface events in the order they happen: the trace of R11 (outputs, and the answers they got). -/
inductive Event where
  /-- `XferReq(tx, n)` (R7). -/
  | xferReq (tx : Frame) (n : Nat)
  /-- `XferResp(r)` (R7). -/
  | xferResp (r : Answer)
  /-- `Delay(d)` (R7, R115). -/
  | delay (d : Nat)
  /-- `Ret(v)` (R7). -/
  | ret (v : RetVal)
deriving DecidableEq, Repr

/-- The four error conditions, by their symbolic names (R136, R141). -/
inductive Condition where
  | unexpectedResponse
  | connectionCheckFailure
  | configurationSequenceFailure (i : BitVec 3)
  | transportFault
deriving DecidableEq, Repr

/-- The input events of R121, and the construction event of R175. -/
inductive Input where
  /-- `Cmd`, as a host word (R57). -/
  | cmd (w : HostWord)
  /-- `XferResp(r)` (R121). -/
  | xferResp (r : Answer)
  /-- `DelayDone` (R121). -/
  | delayDone
  /-- Construction again, the hardware form of which is reset (R155, R156). -/
  | reset
deriving DecidableEq, Repr

/-- Everything the spec gives the block (R12), its parameters (R6), the inputs still to come, and the two ghost
records. -/
structure State where
  /-- `SNAP`. -/
  snap : Snap
  /-- `CONN`, `connected` (R19). -/
  conn : Bool
  /-- `AME`, `analog_mode_enabled` (R20). -/
  ame : Bool
  /-- `fsm` (R22). -/
  fsm : Fsm
  /-- `cur_op` (R23). -/
  curOp : Op
  /-- `opa` (R23). -/
  opa : Byte
  /-- `opb` (R23). -/
  opb : Byte
  /-- `step` (R24), the index of the handshake step. -/
  stepIx : BitVec 3
  /-- The parameters of R6, constant for a run (R21; DESIGN CHOICE, log entry 8). -/
  params : Params
  /-- Input events that have not been consumed, the next one first (DESIGN CHOICE, log entry 2). -/
  inbox : List Input
  /-- The trace of interface events, oldest first (R11; DESIGN CHOICE, log entry 11). -/
  trace : List Event
  /-- The ghost log of conditions signalled, oldest first (R141; DESIGN CHOICE, log entry 11). -/
  conditions : List Condition
deriving DecidableEq, Repr

/-- The block right after reset (R30, R156). `BTN`, `ANA`, `cur_op`, `opa`, `opb` have no value there; the zeros here
are the model's (DESIGN CHOICE, log entries 3 and 4). -/
def State.reset : State where
  snap := { dv := false, av := false, btn := Vector.replicate 16 false, ana := Vector.replicate 16 0#8 }
  conn := false
  ame := false
  fsm := .idle
  curOp := .connect
  opa := 0#8
  opb := 0#8
  stepIx := 0#3
  params := Params.default
  inbox := []
  trace := []
  conditions := []

/-- Why the machine stops with a fault. The block itself has no fault state (R141, R146). -/
inductive Fault where
  /-- A read of the receive buffer at an offset that the exchange did not fill (R33, R41). Raised by the extractor's
  byte read; R41 says that it never happens, and no meaning ever ends in it. Safe. -/
  | readPastAnswer (offset : Nat)
deriving DecidableEq, Repr

/-- Why the machine gives an input no meaning. Each is safe: a run that meets one is outside every claim (R133). -/
inductive Refusal where
  /-- Raised by an arm of `exec` whose instruction has no meaning yet. Safe. -/
  | notModelled (mnemonic : String)
  /-- Raised by the words of opcodes 6 and 7, which name no operation (R70). Safe. -/
  | reservedOpcode
  /-- Raised by every host operation presented while `fsm` is not `IDLE` (R133). Safe. -/
  | commandWhileBusy
  /-- Raised by a response or a `DelayDone` in a state that did not ask for it (R122). Safe. -/
  | unsolicitedInput
  /-- Raised by a reset while an operation is in progress (R158). Safe. -/
  | resetWhileBusy
  /-- Raised by a frame to be sent while an exchange is unanswered (R49). Safe. -/
  | exchangeOutstanding
  /-- Raised by a frame that the operation in progress does not send at this point (R76, R134). Safe. -/
  | frameNotSelected
  /-- Raised where (`fsm`, `cur_op`, `step`) is a triple that no transition produces and no rule covers. Safe. -/
  | illegalSequencing
deriving DecidableEq, Repr

end Sys2Proof.Machine
end

