-- ==== Sys2Proof/Machine/Ops.lean ====
section
/-! DEFINITION. The shared operations over the state: recording an event, signalling a condition, accepting a
command, completing an operation, choosing and sending a frame. -/

namespace Sys2Proof.Machine

/-- Record an interface event in the trace (R11). -/
def State.emit (s : State) (e : Event) : State := { s with trace := s.trace ++ [e] }

/-- A transport fault is never visible as itself: it becomes the condition of the operation whose exchange failed
(R139). The other conditions are themselves. -/
def Condition.converted (op : Op) (i : BitVec 3) : Condition → Condition
  | .transportFault =>
    match op with
    | .poll => .unexpectedResponse
    | .connect => .connectionCheckFailure
    | .enableAnalog => .configurationSequenceFailure i
    | .disableAnalog => .configurationSequenceFailure i
    | .disconnect => .transportFault
    | .isConnected => .transportFault
  | c => c

/-- Taking an exception, on this block: the condition is recorded, in its converted form, and nothing else happens.
No state is saved, no mode changes and control goes nowhere (R136, R144); the assignments that belong to the
condition stand beside it in each operation (R10). -/
def State.signal (s : State) (c : Condition) : State :=
  { s with conditions := s.conditions ++ [c.converted s.curOp s.stepIx] }

/-- Signal where a check failed. -/
def State.signalIf (s : State) (failed : Bool) (c : Condition) : State :=
  if failed then s.signal c else s

/-- Acceptance of a command: the three latches, whatever the opcode (R123; DEDUCED, log entry 9). -/
def State.accept (s : State) (op : Op) (a b : Byte) : State :=
  { s with curOp := op, opa := a, opb := b }

/-- Completion of an operation, the block's only return (R10, R145): `Ret(v)` is emitted and `fsm` is `IDLE`. -/
def State.finish (s : State) (v : RetVal) : State :=
  { s with fsm := .idle, trace := s.trace ++ [.ret v] }

/-- The frame of a poll or a probe depends on `AME` alone (R92, R126). -/
def pollFrame (ame : Bool) : Fid := if ame then .pollA else .pollD

/-- `SEQ(op)`, the handshake tables (R111); an operation that is no handshake has none. -/
def handshakeSeq : Op → List Fid
  | .enableAnalog => [.enterCfg, .setAnalog, .enableMotor, .cfgPressure, .exitCfg]
  | .disableAnalog => [.enterCfg, .setDigital, .exitCfg]
  | .connect => []
  | .disconnect => []
  | .isConnected => []
  | .poll => []

/-- The value a handshake gives `AME` on success (R111). -/
def handshakeTarget : Op → Bool
  | .enableAnalog => true
  | _ => false

/-- The frame fetched is a function of (`cur_op`, `step`, `AME`) only (R134); none where no frame belongs there. -/
def State.selected (s : State) : Option Fid :=
  match s.curOp with
  | .connect => some (pollFrame s.ame)
  | .poll => some (pollFrame s.ame)
  | .enableAnalog => (handshakeSeq .enableAnalog)[s.stepIx.toNat]?
  | .disableAnalog => (handshakeSeq .disableAnalog)[s.stepIx.toNat]?
  | .disconnect => none
  | .isConnected => none

/-- The length of the exchange that is outstanding (R69). -/
def State.xferLen (s : State) : Nat :=
  match s.selected with
  | some fid => fid.len
  | none => 0

/-- Sending a frame: one `XferReq(ROM(fid), len(fid))`, and the block waits for its answer (R76, R121). A new request
goes out only after the previous one was answered (R49), and only the frame the operation in progress selects (R76,
R134); elsewhere it is refused (DESIGN CHOICE, log entries 6 and 7). Where no operation is in progress the selection is by
the latch `cur_op` as it stands, although R23 calls it meaningless in `IDLE`: a frame instruction executed there, which no
step does, is sent or refused by it (DESIGN CHOICE, log entry 17). -/
def sendFrame (fid : Fid) (s : State) : Host.Outcome State Fault Refusal :=
  if s.fsm = .xfer then .refused .exchangeOutstanding
  else if s.selected = some fid then .next ({ s with fsm := .xfer }.emit (.xferReq (rom s.params fid) fid.len))
  else .refused .frameNotSelected

/-- A host operation is accepted only in `IDLE` (R122, R133). -/
def whenIdle (s : State) (k : Host.Outcome State Fault Refusal) : Host.Outcome State Fault Refusal :=
  if s.fsm = .idle then k else .refused .commandWhileBusy

/-- `VALIDATE(fid, rx)` (R114). -/
def verdict (v : Validator) (fid : Fid) (rx : Frame) : Bool :=
  !decide ((fid, rx) ∈ v.rejects)

/-- Reset from `IDLE` (R155 to R157): every piece of state at its reset value; the parameters are those supplied
(R160), the inputs still to come and the ghost records are not the block's and stay, and nothing is emitted (DESIGN CHOICE, log
entry 8). -/
def State.construct (s : State) : State :=
  { State.reset with params := s.params, inbox := s.inbox, trace := s.trace, conditions := s.conditions }

end Sys2Proof.Machine
end

