-- ==== Sys2Proof/Machine/Frames.lean ====
section
/-! DEFINITION. The meanings of the eight wire frames (40_wire_commands.md): what the block does with each is to send
it (R76). -/

namespace Sys2Proof.Machine

/-- `F_POLL_D` (R77). -/
def execFPollD (s : State) : Host.Outcome State Fault Refusal := sendFrame .pollD s

/-- `F_POLL_A` (R78). -/
def execFPollA (s : State) : Host.Outcome State Fault Refusal := sendFrame .pollA s

/-- `F_ENTER_CFG` (R79). -/
def execFEnterCfg (s : State) : Host.Outcome State Fault Refusal := sendFrame .enterCfg s

/-- `F_SET_ANALOG` (R80). -/
def execFSetAnalog (s : State) : Host.Outcome State Fault Refusal := sendFrame .setAnalog s

/-- `F_ENABLE_MOTOR` (R81). -/
def execFEnableMotor (s : State) : Host.Outcome State Fault Refusal := sendFrame .enableMotor s

/-- `F_CFG_PRESSURE` (R82). -/
def execFCfgPressure (s : State) : Host.Outcome State Fault Refusal := sendFrame .cfgPressure s

/-- `F_EXIT_CFG` (R83). -/
def execFExitCfg (s : State) : Host.Outcome State Fault Refusal := sendFrame .exitCfg s

/-- `F_SET_DIGITAL` (R84). -/
def execFSetDigital (s : State) : Host.Outcome State Fault Refusal := sendFrame .setDigital s

end Sys2Proof.Machine
end

