-- ==== Sys2Proof/Machine/Reserved.lean ====
section
/-! DEFINITION. The words of opcodes 6 and 7 (30_encoding.md section 5). -/

namespace Sys2Proof.Machine

/-- Opcodes 6 and 7 name no operation: the model gives them no meaning (R70, R133). -/
def execReserved (_odd : Bool) (_a _b : Byte) (_s : State) : Host.Outcome State Fault Refusal :=
  .refused .reservedOpcode

end Sys2Proof.Machine
end

