-- ==== Sys2Proof/Machine/Connection.lean ====
section
/-! DEFINITION. `CONNECT`, `DISCONNECT`, `IS_CONNECTED` and the completion of the probe (41_connection.md). -/

namespace Sys2Proof.Machine

/-- `CONNECT` (R86, R126): without the probe the verdict is false at once; with it one poll frame is sent. -/
def execConnect (a b : Byte) (s : State) : Host.Outcome State Fault Refusal :=
  whenIdle s <|
    let s := s.accept .connect a b
    if s.params.connectProbe then sendFrame (pollFrame s.ame) s
    else .next (({ s with conn := false }.signal .connectionCheckFailure).finish (.bool false))

/-- `DISCONNECT` (R87, R124). -/
def execDisconnect (a b : Byte) (s : State) : Host.Outcome State Fault Refusal :=
  whenIdle s <| .next ({ s.accept .disconnect a b with conn := false }.finish .none)

/-- `IS_CONNECTED` (R88, R125). -/
def execIsConnected (a b : Byte) (s : State) : Host.Outcome State Fault Refusal :=
  whenIdle s <| .next ((s.accept .isConnected a b).finish (.bool s.conn))

/-- The probe's answer (R86, R130): either valid discriminator is success; `SNAP` is not written. -/
def completeProbe (cls : RespClass) (rx : Option Frame) (s : State) : Host.Outcome State Fault Refusal :=
  match rx with
  | none => .next (({ s with conn := false }.signal .transportFault).finish (.bool false))
  | some _ =>
    let ok := cls == RespClass.digital || cls == RespClass.analog
    .next (({ s with conn := ok }.signalIf (!ok) .connectionCheckFailure).finish (.bool ok))

end Sys2Proof.Machine
end

