-- ==== Sys2Proof/Machine/Handshake.lean ====
section
/-! DEFINITION. `ENABLE_ANALOG`, `DISABLE_ANALOG` and the completion of a handshake step (44_config_handshake.md). -/

namespace Sys2Proof.Machine

/-- The opening of a handshake (R128): step 0, its frame sent with no delay before it. -/
def startHandshake (op : Op) (a b : Byte) (s : State) : Host.Outcome State Fault Refusal :=
  whenIdle s <| sendFrame .enterCfg { s.accept op a b with stepIx := 0#3 }

/-- `ENABLE_ANALOG` (R112, R128). -/
def execEnableAnalog (a b : Byte) (s : State) : Host.Outcome State Fault Refusal := startHandshake .enableAnalog a b s

/-- `DISABLE_ANALOG` (R113, R128). -/
def execDisableAnalog (a b : Byte) (s : State) : Host.Outcome State Fault Refusal := startHandshake .disableAnalog a b s

/-- The end of a handshake: `step` returns to 0 and the result is returned (R24, R131). -/
def endHandshake (ok : Bool) (s : State) : State := { s with stepIx := 0#3 }.finish (.bool ok)

/-- The answer to a handshake step (R131): abort, success at the last step, or the delay before the next step. A
string of another length than the frame's counts as `Fail` (R41), and `Fail` does not reach the validator (R114). -/
def completeHandshake (r : Answer) (s : State) : Host.Outcome State Fault Refusal :=
  match (handshakeSeq s.curOp)[s.stepIx.toNat]? with
  | none => .refused .illegalSequencing
  | some fid =>
    match r.bytes fid.len with
    | .error _ => .next (endHandshake false (s.signal .transportFault))
    | .ok rx =>
      if verdict s.params.validator fid rx = false then
        .next (endHandshake false (s.signal (.configurationSequenceFailure s.stepIx)))
      else if s.stepIx.toNat + 1 = (handshakeSeq s.curOp).length then
        .next (endHandshake true { s with ame := handshakeTarget s.curOp })
      else .next ({ s with fsm := .delay }.emit (.delay s.params.stepDelay))

end Sys2Proof.Machine
end

