-- ==== Sys2Proof/Machine/Operands.lean ====
section
/-! DEFINITION. The receive buffer's byte read and the bitfield extractor (R33, R100 to R110). -/

namespace Sys2Proof.Machine

/-- The byte at an absolute offset of the received string (R33); an offset the exchange did not fill has none (R41). -/
def rxByte (rx : Frame) (k : Nat) : Except Fault Byte :=
  match rx[k]? with
  | some v => .ok v
  | none => .error (.readPastAnswer k)

/-- The sixteen buttons from the bytes at offsets 3 and 4: each bit alone, inverted (R67, R101, R102). -/
def buttonsOf (x y : Byte) : Vector Bool 16 :=
  Vector.ofFn fun i => if i.val < 8 then !x.getLsbD i.val else !y.getLsbD (i.val - 8)

/-- `DecodeDigital(rx)` (R100 to R102). -/
def decodeDigital (rx : Frame) : Except Fault (Vector Bool 16) :=
  match rxByte rx 3, rxByte rx 4 with
  | .ok x, .ok y => .ok (buttonsOf x y)
  | .error f, _ => .error f
  | .ok _, .error f => .error f

/-- The copies of `DecodeAnalog` for a list of offsets, each given as its distance from offset 5. -/
def decodeAnalogAt (map : Vector (Fin 16) 16) (rx : Frame) :
    List (Fin 16) → Vector Byte 16 → Except Fault (Vector Byte 16)
  | [], ana => .ok ana
  | i :: is, ana =>
    match rxByte rx (5 + i.val) with
    | .ok v => decodeAnalogAt map rx is (ana.set (map.get i).val v (map.get i).isLt)
    | .error f => .error f

/-- `DecodeAnalog(rx)`: `ANA[ANALOG_MAP(k)] <- rx[k]` for `k` in 5 to 20, each byte unchanged (R68, R103). -/
def decodeAnalog (map : Vector (Fin 16) 16) (rx : Frame) (ana : Vector Byte 16) : Except Fault (Vector Byte 16) :=
  decodeAnalogAt map rx (List.finRange 16) ana

end Sys2Proof.Machine
end

