-- ==== Sys2Proof/Machine/Flags.lean ====
section
/-! DEFINITION. The two validity flags and the snapshot a poll writes (R94, R95, R110). -/

namespace Sys2Proof.Machine

/-- The new `DV` (R94). -/
def flagDV (cls : RespClass) : Bool := cls == .digital || cls == .analog

/-- The new `AV` (R94). -/
def flagAV (cls : RespClass) (ame : Bool) : Bool := cls == .analog && ame

/-- The snapshot after a poll: both flags always written, the buttons all or none, the analog registers all or none
(R18, R90, R110). -/
def pollSnap (map : Vector (Fin 16) 16) (ame : Bool) (cls : RespClass) (rx : Frame) (old : Snap) : Except Fault Snap :=
  match (if flagDV cls then decodeDigital rx else .ok old.btn),
      (if flagAV cls ame then decodeAnalog map rx old.ana else .ok old.ana) with
  | .ok btn, .ok ana => .ok { dv := flagDV cls, av := flagAV cls ame, btn := btn, ana := ana }
  | .error f, _ => .error f
  | .ok _, .error f => .error f

end Sys2Proof.Machine
end

