-- ==== Sys2Proof/Machine/Poll.lean ====
section
/-! DEFINITION. `POLL`, `POLL0` and the completion of a poll (42_poll_discriminator.md). -/

namespace Sys2Proof.Machine

/-- `POLL a, b` (R90, R127): one poll frame is sent, the one `AME` selects; `SNAP` is not touched yet. -/
def execPoll (a b : Byte) (s : State) : Host.Outcome State Fault Refusal :=
  whenIdle s <|
    let s := s.accept .poll a b
    sendFrame (pollFrame s.ame) s

/-- `POLL0` is `POLL 0, 0` (R74, R91). -/
def execPoll0 (s : State) : Host.Outcome State Fault Refusal := execPoll 0#8 0#8 s

/-- The poll's answer (R90, R129): the snapshot is written in one transition, and a transport fault has the effect of
an unexpected discriminator (R95, R96). -/
def completePoll (cls : RespClass) (rx : Option Frame) (s : State) : Host.Outcome State Fault Refusal :=
  match rx with
  | none =>
    let snap := { s.snap with dv := false, av := false }
    .next (({ s with snap := snap }.signal .transportFault).finish (.snap snap))
  | some rx =>
    match pollSnap s.params.analogMap s.ame cls rx s.snap with
    | .error f => .fault f
    | .ok snap =>
      .next (({ s with snap := snap }.signalIf (cls == RespClass.unexpected) .unexpectedResponse).finish (.snap snap))

end Sys2Proof.Machine
end

