-- ==== Sys2Proof/Machine/Responses.lean ====
section
/-! DEFINITION. The meanings of the three response classes: the completion of the exchange they answer (45_dispatch_fsm.md
section 3). -/

namespace Sys2Proof.Machine

/-- The completion of the outstanding exchange, by the operation in progress (R129 to R131); `rx` is the received
string if it has the length asked for (R41). -/
def complete (cls : RespClass) (r : Answer) (rx : Option Frame) (s : State) : Host.Outcome State Fault Refusal :=
  match s.curOp with
  | .poll => completePoll cls rx s
  | .connect => completeProbe cls rx s
  | .enableAnalog => completeHandshake r s
  | .disableAnalog => completeHandshake r s
  | .disconnect => .refused .illegalSequencing
  | .isConnected => .refused .illegalSequencing

/-- A received string of a class: accepted only while an exchange is unanswered (R122), recorded, and completed. A
string of another length than was asked for counts as `Fail` (R41, the spec's decision D18; log entry 14). -/
def receive (cls : RespClass) (rx : Frame) (s : State) : Host.Outcome State Fault Refusal :=
  if s.fsm = .xfer then
    complete cls (.ok rx) (if rx.length = s.xferLen then some rx else none) (s.emit (.xferResp (.ok rx)))
  else .refused .unsolicitedInput

/-- `RESP_DIGITAL` (R93, R94). -/
def execRespDigital (rx : Frame) (s : State) : Host.Outcome State Fault Refusal := receive .digital rx s

/-- `RESP_ANALOG` (R93, R94). -/
def execRespAnalog (rx : Frame) (s : State) : Host.Outcome State Fault Refusal := receive .analog rx s

/-- `RESP_UNEXPECTED` (R93, R95). -/
def execRespUnexpected (rx : Frame) (s : State) : Host.Outcome State Fault Refusal := receive .unexpected rx s

end Sys2Proof.Machine
end

