-- ==== Sys2Proof/Machine/Dispatch.lean ====
section
/-! DEFINITION. The dispatch: one arm per row of the opcode table. -/

namespace Sys2Proof.Machine

/-- The meaning of an instruction. -/
def exec (i : Instr) (s : State) : Host.Outcome State Fault Refusal :=
  match i with
  | .connect a b => Sys2Proof.Machine.execConnect a b s
  | .disconnect a b => Sys2Proof.Machine.execDisconnect a b s
  | .isConnected a b => Sys2Proof.Machine.execIsConnected a b s
  | .poll a b => Sys2Proof.Machine.execPoll a b s
  | .enableAnalog a b => Sys2Proof.Machine.execEnableAnalog a b s
  | .disableAnalog a b => Sys2Proof.Machine.execDisableAnalog a b s
  | .poll0 => Sys2Proof.Machine.execPoll0 s
  | .reserved odd a b => Sys2Proof.Machine.execReserved odd a b s
  | .fPollD => Sys2Proof.Machine.execFPollD s
  | .fPollA => Sys2Proof.Machine.execFPollA s
  | .fEnterCfg => Sys2Proof.Machine.execFEnterCfg s
  | .fSetAnalog => Sys2Proof.Machine.execFSetAnalog s
  | .fEnableMotor => Sys2Proof.Machine.execFEnableMotor s
  | .fCfgPressure => Sys2Proof.Machine.execFCfgPressure s
  | .fExitCfg => Sys2Proof.Machine.execFExitCfg s
  | .fSetDigital => Sys2Proof.Machine.execFSetDigital s
  | .respDigital rx => Sys2Proof.Machine.execRespDigital rx s
  | .respAnalog rx => Sys2Proof.Machine.execRespAnalog rx s
  | .respUnexpected rx => Sys2Proof.Machine.execRespUnexpected rx s

end Sys2Proof.Machine
end

