-- ==== Sys2Proof/Machine/Events.lean ====
section
/-! DEFINITION. What each input event does: which instruction it makes the block run (45_dispatch_fsm.md). -/

namespace Sys2Proof.Machine

/-- `Cmd` (R122, R123): the word is decoded and run. -/
def onCmd (w : HostWord) (s : State) : Host.Outcome State Fault Refusal := exec (decodeH19 w) s

/-- The answer to a poll or a probe: decoded and run, where it is bytes of the length asked for (R143); else it is a
transport fault (R139). -/
def onPollResp (r : Answer) (s : State) : Host.Outcome State Fault Refusal :=
  match decodeRx s.xferLen r with
  | .ok i => exec i s
  | .error _ => complete .unexpected r none (s.emit (.xferResp r))

/-- `XferResp(r)` in `XFER` (R129 to R131). The answer to a handshake step is not parsed (R35). -/
def onXferResp (r : Answer) (s : State) : Host.Outcome State Fault Refusal :=
  if s.fsm = .xfer then
    match s.curOp with
    | .enableAnalog => completeHandshake r (s.emit (.xferResp r))
    | .disableAnalog => completeHandshake r (s.emit (.xferResp r))
    | .poll => onPollResp r s
    | .connect => onPollResp r s
    | .disconnect => .refused .illegalSequencing
    | .isConnected => .refused .illegalSequencing
  else .refused .unsolicitedInput

/-- `DelayDone` in `DELAY` (R132): the step advances and the frame of the new step is run. -/
def onDelayDone (s : State) : Host.Outcome State Fault Refusal :=
  if s.fsm = .delay then
    let s := { s with stepIx := s.stepIx + 1#3 }
    match (handshakeSeq s.curOp)[s.stepIx.toNat]? with
    | some fid => exec fid.instr s
    | none => .refused .illegalSequencing
  else .refused .unsolicitedInput

/-- Reset (R156, R158): defined from `IDLE` only. -/
def onReset (s : State) : Host.Outcome State Fault Refusal :=
  if s.fsm = .idle then .next s.construct else .refused .resetWhileBusy

/-- One input event. -/
def onInput (e : Input) (s : State) : Host.Outcome State Fault Refusal :=
  match e with
  | .cmd w => onCmd w s
  | .xferResp r => onXferResp r s
  | .delayDone => onDelayDone s
  | .reset => onReset s

/-- One step: the next input event is consumed (R121); while none has come the block waits where it is (R169). -/
def consume (s : State) : Host.Outcome State Fault Refusal :=
  match s.inbox with
  | [] => .next s
  | e :: rest => onInput e { s with inbox := rest }

/-- The state in which the next event is the one that makes the block run the instruction a row's word decodes to:
a host word is presented in `IDLE`; a frame is awaited by the operation whose rule sends it; a received poll frame
answers the exchange of a poll of its length (DESIGN CHOICE, log entry 6). -/
def placeInstr (i : Instr) (w : HostWord) (s : State) : State :=
  let cmd (v : HostWord) : State := { s with fsm := .idle, stepIx := 0#3, inbox := .cmd v :: s.inbox }
  let after (op : Op) (k : BitVec 3) : State :=
    { s with fsm := .delay, curOp := op, stepIx := k, inbox := .delayDone :: s.inbox }
  let answer (rx : Frame) : State :=
    { s with
      fsm := .xfer, curOp := .poll, stepIx := 0#3, ame := decide (rx.length = lenAnalog)
      inbox := .xferResp (.ok rx) :: s.inbox }
  match i with
  | .fPollD => { cmd 0x30000#19 with ame := false }
  | .fPollA => { cmd 0x30000#19 with ame := true }
  | .fEnterCfg => cmd 0x40000#19
  | .fSetAnalog => after .enableAnalog 0#3
  | .fEnableMotor => after .enableAnalog 1#3
  | .fCfgPressure => after .enableAnalog 2#3
  | .fExitCfg => after .enableAnalog 3#3
  | .fSetDigital => after .disableAnalog 0#3
  | .respDigital rx => answer rx
  | .respAnalog rx => answer rx
  | .respUnexpected rx => answer rx
  | _ => cmd w

/-- The state with a row's word placed where the next step takes it from. -/
def placeWord (s : State) (nbits w : Nat) : State :=
  match decodeTableWord nbits w with
  | some i => placeInstr i (BitVec.ofNat 19 w) s
  | none => s

end Sys2Proof.Machine
end

