-- ==== Sys2Proof/Machine/Step.lean ====
section
/-! DEFINITION. The step of the machine, and where the host places an instruction for it. -/

namespace Sys2Proof.Machine

/-- One step: one input event consumed (R121), or none there and the block waits (R169). -/
def step (s : State) : Host.Outcome State Fault Refusal := consume s

/-- The state `s` with an instruction placed where the next step takes it from: a host word is presented by the host,
any other row's word by the event that makes the block run it. -/
def State.withFetchWord (s : State) (nbits w : Nat) : State := placeWord s nbits w

end Sys2Proof.Machine
end

