-- ==== Sys2Proof/Machine/Text.lean ====
section
/-! DEFINITION. The one-line textual form of the host operations (R73, R74) and its translation to command words. A
line is a list of characters. -/

namespace Sys2Proof.Machine

/-- The value of a digit in a base of at most 16. -/
def digitVal (c : Char) : Option Nat :=
  if '0' ≤ c ∧ c ≤ '9' then some (c.toNat - '0'.toNat)
  else if 'a' ≤ c ∧ c ≤ 'f' then some (c.toNat - 'a'.toNat + 10)
  else if 'A' ≤ c ∧ c ≤ 'F' then some (c.toNat - 'A'.toNat + 10)
  else none

/-- The digits of a number in a base, after the digits already read. -/
def digitsFrom (base : Nat) : Nat → List Char → Option Nat
  | acc, [] => some acc
  | acc, c :: cs =>
    match digitVal c with
    | some d => if d < base then digitsFrom base (acc * base + d) cs else none
    | none => none

/-- An operand: decimal, or hexadecimal after `0x`, each 0 to 255 (R73). Hexadecimal digits of either case and leading
zeros are read (DESIGN CHOICE, log entry 15). -/
def operand (cs : List Char) : Option Byte :=
  let n := match cs with
    | [] => none
    | ['0', 'x'] => none
    | '0' :: 'x' :: ds => digitsFrom 16 0 ds
    | ds => digitsFrom 10 0 ds
  match n with
  | some n => if n < 256 then some (BitVec.ofNat 8 n) else none
  | none => none

/-- Characters without the blanks at both ends. -/
def trim (cs : List Char) : List Char :=
  ((cs.dropWhile (· = ' ')).reverse.dropWhile (· = ' ')).reverse

/-- A line without its comment (R73) and the blanks at its ends, cut into the word before the first blank and the rest
without the blanks at its ends. R73 says nothing of blanks: that a blank is the space character only, and where it is
skipped, is the model's (DESIGN CHOICE, log entry 15). -/
def splitLine (line : List Char) : List Char × List Char :=
  let body := trim (line.takeWhile (· ≠ ';'))
  (body.takeWhile (· ≠ ' '), trim (body.dropWhile (· ≠ ' ')))

/-- The operation a line names and its operands; `poll` without operands is `poll 0, 0` (R74). Blanks around an operand
are skipped; a blank inside one makes it no operand, so that `poll 1 2, 3` is no line (DESIGN CHOICE, log entry 15). -/
def parseLine (line : List Char) : Option Instr :=
  let (name, rest) := splitLine line
  if name = ['p', 'o', 'l', 'l'] then
    match rest with
    | [] => some .poll0
    | _ =>
      match operand (trim (rest.takeWhile (· ≠ ','))), operand (trim ((rest.dropWhile (· ≠ ',')).drop 1)) with
      | some a, some b => some (.poll a b)
      | _, _ => none
  else if rest ≠ [] then none
  else if name = ['c', 'o', 'n', 'n', 'e', 'c', 't'] then some (.connect 0#8 0#8)
  else if name = ['d', 'i', 's', 'c', 'o', 'n', 'n', 'e', 'c', 't'] then some (.disconnect 0#8 0#8)
  else if name = ['i', 's', '_', 'c', 'o', 'n', 'n', 'e', 'c', 't', 'e', 'd'] then some (.isConnected 0#8 0#8)
  else if name = ['e', 'n', 'a', 'b', 'l', 'e', '_', 'a', 'n', 'a', 'l', 'o', 'g'] then some (.enableAnalog 0#8 0#8)
  else if name = ['d', 'i', 's', 'a', 'b', 'l', 'e', '_', 'a', 'n', 'a', 'l', 'o', 'g'] then
    some (.disableAnalog 0#8 0#8)
  else none

/-- The command word of a line (R73). -/
def assembleLine (line : List Char) : Option HostWord :=
  match parseLine line with
  | some i =>
    match encode Params.default i with
    | .h19 w => some w
    | .tx _ => none
    | .rx _ => none
  | none => none

end Sys2Proof.Machine
end

