-- ==== Sys2Proof/Machine/BigStep.lean ====
section
/-! DEFINITION. The big-step rules of files 41, 42 and 44 (R11), written from their pseudocode and not from the
transitions: for a start state, the operands and the transport's answers, the end state with its trace. `orc k` is the
answer to the operation's `k`-th exchange, counted from 0; quantifying over `orc` is quantifying over every transport
and device (R50). -/

namespace Sys2Proof.Machine

/-- `r <- Xfer(ROM(fid), len(fid))` in the trace (R76). -/
def bigXfer (fid : Fid) (r : Answer) (s : State) : State :=
  (s.emit (.xferReq (rom s.params fid) fid.len)).emit (.xferResp r)

/-- Success of the probe: an answer of the length asked for with either valid discriminator (R86). -/
def bigProbe (fid : Fid) (r : Answer) : Bool :=
  match r.bytes fid.len with
  | .ok rx => decide (rx[1]? = some discDigital ∨ rx[1]? = some discAnalog)
  | .error _ => false

/-- `CONNECT` (R86). -/
def bigConnect (orc : Nat → Answer) (s : State) : State :=
  if s.params.connectProbe = false then
    ({ s with conn := false }.signal .connectionCheckFailure).finish (.bool false)
  else
    let fid := if s.ame then Fid.pollA else .pollD
    let ok := bigProbe fid (orc 0)
    let s := { bigXfer fid (orc 0) s with conn := ok }
    (s.signalIf (!ok) .connectionCheckFailure).finish (.bool ok)

/-- `DISCONNECT` (R87). -/
def bigDisconnect (s : State) : State := { s with conn := false }.finish .none

/-- `IS_CONNECTED` (R88). -/
def bigIsConnected (s : State) : State := s.finish (.bool s.conn)

/-- The analog registers after `DecodeAnalog(rx)` (R103). A byte that `rx` lacks is written as 0 here; `bigPoll` uses
this only where all 21 bytes are there. -/
def bigAnalog (map : Vector (Fin 16) 16) (rx : Frame) (ana : Vector Byte 16) : Vector Byte 16 :=
  (List.finRange 16).foldl (fun acc i => acc.set (map.get i).val (rx.getD (5 + i.val) 0#8) (map.get i).isLt) ana

/-- The bytes of an answer; a failed exchange has none to classify (R96). -/
def bigAnswer (n : Nat) (r : Answer) : Frame :=
  match r.bytes n with
  | .ok rx => rx
  | .error _ => []

/-- `Classify(rx[1])`, `RESP_UNEXPECTED` where there is no byte (R93, R96). -/
def bigClass (rx : Frame) : RespClass :=
  match rx[1]? with
  | some d => if d = 0x41#8 then .digital else if d = 0x73#8 then .analog else .unexpected
  | none => .unexpected

/-- The snapshot that `POLL` makes of the received bytes (R90). -/
def bigPollSnap (map : Vector (Fin 16) 16) (ame : Bool) (rx : Frame) (old : Snap) : Snap :=
  let cls := bigClass rx
  let dv := decide (cls = .digital ∨ cls = .analog)
  let av := decide (cls = .analog ∧ ame = true)
  { dv := dv
    av := av
    btn := if dv then buttonsOf (rx.getD 3 0#8) (rx.getD 4 0#8) else old.btn
    ana := if av then bigAnalog map rx old.ana else old.ana }

/-- `POLL` (R90). -/
def bigPoll (orc : Nat → Answer) (s : State) : State :=
  let fid := if s.ame then Fid.pollA else .pollD
  let rx := bigAnswer fid.len (orc 0)
  let snap := bigPollSnap s.params.analogMap s.ame rx s.snap
  let s := { bigXfer fid (orc 0) s with snap := snap }
  (s.signalIf (bigClass rx == .unexpected) .unexpectedResponse).finish (.snap snap)

/-- The check of one handshake step: `r = Ok(rx)` and `VALIDATE(fid, rx)` (R111, R114). -/
def bigValidated (v : Validator) (fid : Fid) (r : Answer) : Bool :=
  match r.bytes fid.len with
  | .ok rx => !decide ((fid, rx) ∈ v.rejects)
  | .error _ => false

/-- The loop of `Handshake(S, L, T)` from step `i` on (R111): `fids` are the frames still to send. -/
def bigHandshake (orc : Nat → Answer) (target : Bool) : Nat → List Fid → State → State
  | _, [], s => { s with ame := target, stepIx := 0#3 }.finish (.bool true)
  | i, fid :: fids, s =>
    let s := if 0 < i then s.emit (.delay s.params.stepDelay) else s
    let s := bigXfer fid (orc i) s
    if bigValidated s.params.validator fid (orc i) then bigHandshake orc target (i + 1) fids s
    else
      { s.signal (.configurationSequenceFailure (BitVec.ofNat 3 i)) with stepIx := 0#3 }.finish (.bool false)

/-- The big-step rule of an operation, on an accepted command (R123). -/
def bigStep (op : Op) (a b : Byte) (orc : Nat → Answer) (s : State) : State :=
  let s := { s with curOp := op, opa := a, opb := b }
  match op with
  | .connect => bigConnect orc s
  | .disconnect => bigDisconnect s
  | .isConnected => bigIsConnected s
  | .poll => bigPoll orc s
  | .enableAnalog => bigHandshake orc true 0 [.enterCfg, .setAnalog, .enableMotor, .cfgPressure, .exitCfg] s
  | .disableAnalog => bigHandshake orc false 0 [.enterCfg, .setDigital, .exitCfg] s

end Sys2Proof.Machine
end

