-- ==== Sys2Proof/Machine/Environment.lean ====
section
/-! DEFINITION. An environment that answers (premise `Answering` of R176): the transport answers every request and every
delay completes. It drives the block's steps through one operation. -/

namespace Sys2Proof.Machine

/-- An input event presented next. -/
def State.offer (s : State) (e : Input) : State := { s with inbox := e :: s.inbox }

/-- Go on from a next state; a fault or a refusal ends there. -/
def andThen (o : Host.Outcome State Fault Refusal) (f : State → Host.Outcome State Fault Refusal) :
    Host.Outcome State Fault Refusal :=
  match o with
  | .next s => f s
  | .fault r => .fault r
  | .refused r => .refused r

/-- At most `fuel` steps of the block while an operation is in progress. In `XFER` the transport answers, in `DELAY`
the delay completes; `orc k` is the answer to the `k`-th exchange from here on, `k` the number already answered. -/
def drive (orc : Nat → Answer) : Nat → Nat → State → Host.Outcome State Fault Refusal
  | 0, _, s => .next s
  | fuel + 1, k, s =>
    match s.fsm with
    | .idle => .next s
    | .xfer => andThen (step (s.offer (.xferResp (orc k)))) (drive orc fuel (k + 1))
    | .delay => andThen (step (s.offer .delayDone)) (drive orc fuel k)

/-- One host operation, from its command word to the end: the command's own step and at most nine more, the five
exchanges and four delays of the longest handshake (R174). -/
def runWord (w : HostWord) (orc : Nat → Answer) (s : State) : Host.Outcome State Fault Refusal :=
  andThen (step (s.offer (.cmd w))) (drive orc 9 0)

/-- `runWord` on the word of an operation. -/
def runOp (op : Op) (a b : Byte) (orc : Nat → Answer) (s : State) : Host.Outcome State Fault Refusal :=
  runWord (h19Word op.code a b) orc s

end Sys2Proof.Machine
end

