-- ==== Sys2Proof/Machine/Names.lean ====
section
/-! DEFINITION. The named fields of the snapshot (R13, R14), where each comes from (R65), and their packing into words
(R60, R107). -/

namespace Sys2Proof.Machine

/-- The sixteen buttons, in the order of R13. -/
inductive Button where
  | select | leftStickClick | rightStickClick | start | dUp | dRight | dDown | dLeft
  | left2 | right2 | left1 | right1 | triangle | circle | cross | square
deriving DecidableEq, Repr

/-- The sixteen analog fields, in the order of R14. -/
inductive Analog where
  | rightX | rightY | leftX | leftY
  | rightPressure | leftPressure | upPressure | downPressure
  | trianglePressure | circlePressure | crossPressure | squarePressure
  | left1Pressure | right1Pressure | left2Pressure | right2Pressure
deriving DecidableEq, Repr

/-- The groups of R13 and R14 (90_conflicts.md C8). -/
inductive Group where
  | startSelect | stickClick | dPad | face | shoulder | trigger | stickAxis
deriving DecidableEq, Repr

/-- The index of a button in `BTN` (R13). -/
def Button.index : Button → Fin 16
  | .select => 0
  | .leftStickClick => 1
  | .rightStickClick => 2
  | .start => 3
  | .dUp => 4
  | .dRight => 5
  | .dDown => 6
  | .dLeft => 7
  | .left2 => 8
  | .right2 => 9
  | .left1 => 10
  | .right1 => 11
  | .triangle => 12
  | .circle => 13
  | .cross => 14
  | .square => 15

/-- The response offset and bit that a button comes from (R65, R101, R102). -/
def Button.source : Button → Nat × Nat
  | .select => (3, 0)
  | .leftStickClick => (3, 1)
  | .rightStickClick => (3, 2)
  | .start => (3, 3)
  | .dUp => (3, 4)
  | .dRight => (3, 5)
  | .dDown => (3, 6)
  | .dLeft => (3, 7)
  | .left2 => (4, 0)
  | .right2 => (4, 1)
  | .left1 => (4, 2)
  | .right1 => (4, 3)
  | .triangle => (4, 4)
  | .circle => (4, 5)
  | .cross => (4, 6)
  | .square => (4, 7)

/-- The group of a button (R13). -/
def Button.group : Button → Group
  | .select => .startSelect
  | .leftStickClick => .stickClick
  | .rightStickClick => .stickClick
  | .start => .startSelect
  | .dUp => .dPad
  | .dRight => .dPad
  | .dDown => .dPad
  | .dLeft => .dPad
  | .left2 => .trigger
  | .right2 => .trigger
  | .left1 => .shoulder
  | .right1 => .shoulder
  | .triangle => .face
  | .circle => .face
  | .cross => .face
  | .square => .face

/-- The index of an analog field in `ANA` (R14). -/
def Analog.index : Analog → Fin 16
  | .rightX => 0
  | .rightY => 1
  | .leftX => 2
  | .leftY => 3
  | .rightPressure => 4
  | .leftPressure => 5
  | .upPressure => 6
  | .downPressure => 7
  | .trianglePressure => 8
  | .circlePressure => 9
  | .crossPressure => 10
  | .squarePressure => 11
  | .left1Pressure => 12
  | .right1Pressure => 13
  | .left2Pressure => 14
  | .right2Pressure => 15

/-- The response offset of an analog field under the default `ANALOG_MAP` (R65, R103). -/
def Analog.defaultOffset : Analog → Nat
  | .rightX => 5
  | .rightY => 6
  | .leftX => 7
  | .leftY => 8
  | .rightPressure => 9
  | .leftPressure => 10
  | .upPressure => 11
  | .downPressure => 12
  | .trianglePressure => 13
  | .circlePressure => 14
  | .crossPressure => 15
  | .squarePressure => 16
  | .left1Pressure => 17
  | .right1Pressure => 18
  | .left2Pressure => 19
  | .right2Pressure => 20

/-- The class of an analog field (R14). -/
def Analog.group : Analog → Group
  | .rightX => .stickAxis
  | .rightY => .stickAxis
  | .leftX => .stickAxis
  | .leftY => .stickAxis
  | .rightPressure => .dPad
  | .leftPressure => .dPad
  | .upPressure => .dPad
  | .downPressure => .dPad
  | .trianglePressure => .face
  | .circlePressure => .face
  | .crossPressure => .face
  | .squarePressure => .face
  | .left1Pressure => .shoulder
  | .right1Pressure => .shoulder
  | .left2Pressure => .trigger
  | .right2Pressure => .trigger

/-- The pressure value of a button, for the twelve that have one (R14, R105). -/
def Button.pressure : Button → Option Analog
  | .select => none
  | .leftStickClick => none
  | .rightStickClick => none
  | .start => none
  | .dUp => some .upPressure
  | .dRight => some .rightPressure
  | .dDown => some .downPressure
  | .dLeft => some .leftPressure
  | .left2 => some .left2Pressure
  | .right2 => some .right2Pressure
  | .left1 => some .left1Pressure
  | .right1 => some .right1Pressure
  | .triangle => some .trianglePressure
  | .circle => some .circlePressure
  | .cross => some .crossPressure
  | .square => some .squarePressure

/-- A button of the snapshot by name. -/
def Snap.button (s : Snap) (b : Button) : Bool := s.btn.get b.index

/-- An analog field of the snapshot by name. -/
def Snap.analog (s : Snap) (f : Analog) : Byte := s.ana.get f.index

/-- Bits packed into a word, bit `i` from `f i`. -/
def packBits (f : Nat → Bool) : (n : Nat) → BitVec n
  | 0 => 0#0
  | n + 1 => BitVec.cons (f n) (packBits f n)

/-- `BTNW`: bit `i` is `BTN[i]` (R60). -/
def buttonWord (btn : Vector Bool 16) : BitVec 16 := packBits (fun i => btn[i]?.getD false) 16

/-- The byte of `BTN[7..0]` (R107). -/
def buttonByteA (btn : Vector Bool 16) : Byte := packBits (fun i => btn[i]?.getD false) 8

/-- The byte of `BTN[15..8]` (R107). -/
def buttonByteB (btn : Vector Bool 16) : Byte := packBits (fun i => btn[8 + i]?.getD false) 8

end Sys2Proof.Machine
end

