-- ==== Sys2Proof/Safety.lean ====
section
/-! DEFINITION. What counts as a safe state and a safe run: the invariants of the block and the premises of R176, in
the terms the statements use. -/

namespace Sys2Proof.Machine

/-- The triples (`fsm`, `cur_op`, `step`) that the transitions produce (R22 to R24, R121, R132). -/
def State.sequenced (s : State) : Bool :=
  match s.fsm with
  | .idle => s.stepIx == 0#3
  | .xfer =>
    match s.curOp with
    | .poll => s.stepIx == 0#3
    | .connect => s.stepIx == 0#3 && s.params.connectProbe
    | .enableAnalog => decide (s.stepIx.toNat < 5)
    | .disableAnalog => decide (s.stepIx.toNat < 3)
    | .disconnect => false
    | .isConnected => false
  | .delay =>
    match s.curOp with
    | .enableAnalog => decide (s.stepIx.toNat < 4)
    | .disableAnalog => decide (s.stepIx.toNat < 2)
    | .poll => false
    | .connect => false
    | .disconnect => false
    | .isConnected => false

/-- `DV = 0, AV = 1` does not arise (R15, R94). -/
def Snap.flagsLegal (s : Snap) : Bool := s.dv || !s.av

/-- A transport fault never shows as itself (R136, R139). -/
def State.conditionsLegal (s : State) : Bool := s.conditions.all (· != .transportFault)

/-- The invariant of the block. -/
def State.inv (s : State) : Bool :=
  s.sequenced && s.snap.flagsLegal && s.params.wf && s.conditionsLegal

/-- `CleanEntry` (R176). -/
def State.cleanEntry (s : State) : Bool := s.fsm == .idle && s.stepIx == 0#3

/-- Is the event a request? -/
def Event.isReq : Event → Bool
  | .xferReq _ _ => true
  | _ => false

/-- Is the event a response? -/
def Event.isResp : Event → Bool
  | .xferResp _ => true
  | _ => false

/-- Is the event a delay? -/
def Event.isDelay : Event → Bool
  | .delay _ => true
  | _ => false

/-- Is the event a completion? -/
def Event.isRet : Event → Bool
  | .ret _ => true
  | _ => false

/-- A walk along a trace: is a request unanswered at its end? `none` where a request follows an unanswered one, where a
response answers nothing, or where the block does something else between a request and its response. -/
def unanswered : Bool → List Event → Option Bool
  | b, [] => some b
  | b, .xferReq _ _ :: es => if b then none else unanswered true es
  | b, .xferResp _ :: es => if b then unanswered false es else none
  | b, .delay _ :: es => if b then none else unanswered b es
  | b, .ret _ :: es => if b then none else unanswered b es

/-- Requests and responses alternate strictly, with nothing between a request and its response, and a request is
unanswered exactly while `fsm = XFER` (R44, R49, R53). -/
def State.alternating (s : State) : Bool := unanswered false s.trace == some (decide (s.fsm = .xfer))

/-- Is the event no request, or the request that sends one of the eight frames with its own length (R43, R72)? -/
def Event.legalReq (p : Params) : Event → Bool
  | .xferReq tx n => Fid.all.any (fun f => rom p f == tx && f.len == n)
  | _ => true

/-- Every frame ever sent is one of the eight (R72). -/
def State.alphabetLegal (s : State) : Bool := s.trace.all (Event.legalReq s.params)

/-- The input events that the state accepts (R122), under the premises `OneAtATime` of R176 and R158. -/
def State.accepts (s : State) : Input → Bool
  | .cmd w => s.fsm == .idle && decide ((h19Op w).toNat < 6)
  | .xferResp _ => s.fsm == .xfer
  | .delayDone => s.fsm == .delay
  | .reset => s.fsm == .idle

/-- The state with the bytes of the two unread latches cleared (R97). -/
def State.forgetOperands (s : State) : State := { s with opa := 0#8, opb := 0#8 }

/-- The state with another transport configuration (R48, R154). -/
def State.withTransport (s : State) (mode freq : Nat) : State :=
  { s with params := { s.params with transportMode := mode, transportFreq := freq } }

/-- An outcome with its next state mapped. -/
def mapNext (f : State → State) : Host.Outcome State Fault Refusal → Host.Outcome State Fault Refusal
  | .next s => .next (f s)
  | .fault r => .fault r
  | .refused r => .refused r

/-- Do the answers to a handshake's frames, the first of them to step `i`, all have their length and pass the
validator (R111, R114)? -/
def allValidate (v : Validator) (orc : Nat → Answer) : Nat → List Fid → Bool
  | _, [] => true
  | i, fid :: fids =>
    bigValidated v fid (orc i) && allValidate v orc (i + 1) fids

/-- The trace of a handshake all of whose steps validate, from step `i` on (R112, R113). -/
def successTrace (p : Params) (orc : Nat → Answer) : Nat → List Fid → List Event
  | _, [] => [.ret (.bool true)]
  | i, fid :: fids =>
    (if 0 < i then [.delay p.stepDelay] else []) ++
      [.xferReq (rom p fid) fid.len, .xferResp (orc i)] ++ successTrace p orc (i + 1) fids

/-- The frame that encodes an intended snapshot (R109); offsets 0 and 2 are free. -/
def encodeSnap (map : Vector (Fin 16) 16) (b0 b2 : Byte) (btn : Vector Bool 16) (ana : Vector Byte 16) : Frame :=
  [b0, discAnalog, b2, buttonByteA btn ^^^ 0xFF#8, buttonByteB btn ^^^ 0xFF#8] ++
    (List.finRange 16).map (fun i => ana.get (map.get i))

/-- Steps 0 to `k - 1` of a handshake validate and step `k` does not. -/
def failsAt (v : Validator) (orc : Nat → Answer) (fids : List Fid) (k : Nat) : Bool :=
  allValidate v orc 0 (fids.take k) && !allValidate v orc 0 (fids.take (k + 1))

end Sys2Proof.Machine
end

