-- ==== Sys2Proof/Certificates/Slice0/Obligations.lean ====
section
/-! DEFINITION. The statements for the provers, from the spec's numbered rules. -/

open Sys2Proof Sys2Proof.Machine

/-! ### Encodings -/

/-- Decoding an encoded well-formed instruction gives it back, `POLL0` as the `POLL 0, 0` it stands for (R57, R58,
R62, R65, R74). -/
def Obligations.DecodeOfEncodeIsTheInstruction : Prop :=
  ∀ (p : Params) (i : Instr), p.framesDistinct = true → i.wf = true → decode p (encode p i) = .ok i.expand

/-- Every host word has one meaning: encoding what it decodes to gives the word back, so no bit of it is dropped (R57,
R58, R59, R70). -/
def Obligations.EncodeOfDecodedHostWordIsTheWord : Prop :=
  ∀ (p : Params) (w : HostWord), encode p (decodeH19 w) = .h19 w

/-- Words written out from the spec's encodings decode to what they stand for: host words of V1 to V12, four
frames of R62, one received frame of each class. The last of the four, `01 44 00 00 03 00 00 00 00`, is `F_SET_DIGITAL`
under the default of the parameter `CMD_SET_DIGITAL` only, a value the spec took from general knowledge (R84, D6;
PRESUMED, log entry 13). -/
def Obligations.SpecWordsDecode : Prop :=
  decodeH19 0b000_00000000_00000000#19 = .connect 0x00#8 0x00#8 ∧
  decodeH19 0b001_00000000_00000000#19 = .disconnect 0x00#8 0x00#8 ∧
  decodeH19 0b010_00000000_00000000#19 = .isConnected 0x00#8 0x00#8 ∧
  decodeH19 0b011_00010010_00110100#19 = .poll 0x12#8 0x34#8 ∧
  decodeH19 0b100_10101011_11001101#19 = .enableAnalog 0xAB#8 0xCD#8 ∧
  decodeH19 0b101_00000000_00000000#19 = .disableAnalog 0x00#8 0x00#8 ∧
  decodeH19 0b110_00000000_00000000#19 = .reserved false 0x00#8 0x00#8 ∧
  decodeH19 0b111_11111111_11111111#19 = .reserved true 0xFF#8 0xFF#8 ∧
  decodeTx Params.default [0x01#8, 0x42#8, 0x00#8, 0x00#8, 0x00#8] = .ok .fPollD ∧
  decodeTx Params.default [0x01#8, 0x43#8, 0x00#8, 0x01#8, 0x00#8] = .ok .fEnterCfg ∧
  decodeTx Params.default [0x01#8, 0x44#8, 0x00#8, 0x01#8, 0x03#8, 0x00#8, 0x00#8, 0x00#8, 0x00#8] = .ok .fSetAnalog ∧
  decodeTx Params.default [0x01#8, 0x44#8, 0x00#8, 0x00#8, 0x03#8, 0x00#8, 0x00#8, 0x00#8, 0x00#8] = .ok .fSetDigital ∧
  decodeRx 5 (.ok [0x01#8, 0x41#8, 0x00#8, 0xFF#8, 0xFF#8]) =
    .ok (.respDigital [0x01#8, 0x41#8, 0x00#8, 0xFF#8, 0xFF#8]) ∧
  decodeRx 5 (.ok [0xFF#8, 0x73#8, 0x5A#8, 0xFE#8, 0xFF#8]) =
    .ok (.respAnalog [0xFF#8, 0x73#8, 0x5A#8, 0xFE#8, 0xFF#8]) ∧
  decodeRx 5 (.ok [0xFF#8, 0x79#8, 0x5A#8, 0xFF#8, 0xFF#8]) =
    .ok (.respUnexpected [0xFF#8, 0x79#8, 0x5A#8, 0xFF#8, 0xFF#8])

/-- The discriminator decoder: a function of the one byte (R93). -/
def Obligations.ClassifyByDiscriminator : Prop :=
  ∀ d : Byte,
    classify d = if d = 0x41#8 then .digital else if d = 0x73#8 then .analog else .unexpected

/-- An answer of the length asked for is decoded by its byte at offset 1 whatever its other bytes are; `Fail` and every
other length decode to nothing. The length rule is the spec's decision D18. -/
def Obligations.AnswersDecodeByLengthThenDiscriminator : Prop :=
  ∀ n : Nat, 2 ≤ n →
    (∃ e, decodeRx n .fail = .error e) ∧
    ∀ rx : Frame,
      (rx.length ≠ n → ∃ e, decodeRx n (.ok rx) = .error e) ∧
      (rx.length = n → ∃ d, rx[1]? = some d ∧ decodeRx n (.ok rx) = .ok ((classify d).instr rx))

/-- Every ROM frame has the length of its id, which is 5, 9 or 21; every frame but the parameter `CMD_SET_DIGITAL`
begins with `01`, has `00` at offset 2, and the digital and the analog poll agree on their first five bytes. -/
def Obligations.RomFramesHaveTheirShape : Prop :=
  ∀ (p : Params) (fid : Fid),
    (rom p fid).length = fid.len ∧ (fid.len = 5 ∨ fid.len = 9 ∨ fid.len = 21) ∧
    (fid ≠ .setDigital → (rom p fid)[0]? = some 0x01#8 ∧ (rom p fid)[2]? = some 0x00#8) ∧
    (rom p .pollA).take 5 = rom p .pollD

/-- The plain-data validators lose no validator: every policy on responses of the right length is one of them. This is
the model's choice of representation (log entry 5). -/
def Obligations.EveryValidationPolicyIsAValidator : Prop :=
  ∀ policy : Fid → Frame → Bool, ∃ v : Validator, ∀ (fid : Fid) (rx : Frame),
    rx.length = fid.len → verdict v fid rx = policy fid rx

/-! ### The step runs the decoded instruction -/

/-- The step is `exec` of the decoded instruction, after the input event is taken off the inbox: a command; the answer
to a poll or a probe; the frame of the next handshake step, after `step` has advanced (R123, R129, R130, R132). -/
def Obligations.StepRunsTheDecodedInstruction : Prop :=
  ∀ s : State,
    (∀ w : HostWord, step (s.offer (.cmd w)) = exec (decodeH19 w) s) ∧
    (∀ (r : Answer) (i : Instr), s.fsm = .xfer → (s.curOp = .poll ∨ s.curOp = .connect) →
      decodeRx s.xferLen r = .ok i → step (s.offer (.xferResp r)) = exec i s) ∧
    (∀ fid : Fid, s.fsm = .delay → (handshakeSeq s.curOp)[(s.stepIx + 1#3).toNat]? = some fid →
      step (s.offer .delayDone) = exec fid.instr { s with stepIx := s.stepIx + 1#3 })

/-- A host word placed for the fetch is what the next step runs. -/
def Obligations.PlacedWordIsRunNext : Prop :=
  ∀ (s : State) (w : HostWord), s.fsm = .idle → s.stepIx = 0#3 →
    step (s.withFetchWord 24 w.toNat) = exec (decodeH19 w) s

/-- While no input event comes the block waits where it is, however many steps are taken (R169). -/
def Obligations.BlockWaitsWithoutInput : Prop :=
  ∀ (s : State) (k : Nat), s.inbox = [] → Host.Core.run Sys2Proof.core k s = .next s

/-! ### Host operations from IDLE -/

/-- `DISCONNECT` completes in the step it is accepted in: `CONN` is cleared, nothing is sent, `Ret()` (R124).
That the latches are written too is R123's: R87 and R124 name `CONN` only (DEDUCED, log entry 9). -/
def Obligations.DisconnectCompletes : Prop :=
  ∀ (s : State) (a b : Byte), s.fsm = .idle →
    exec (.disconnect a b) s = .next { s with
      conn := false, curOp := .disconnect, opa := a, opb := b, trace := s.trace ++ [.ret .none] }

/-- `IS_CONNECTED` completes in the step it is accepted in with `Ret(CONN)`; only the latches change (the latches are
R123's; R88 and R125 count them as no state change). -/
def Obligations.IsConnectedCompletes : Prop :=
  ∀ (s : State) (a b : Byte), s.fsm = .idle →
    exec (.isConnected a b) s = .next { s with
      curOp := .isConnected, opa := a, opb := b, trace := s.trace ++ [.ret (.bool s.conn)] }

/-- `CONNECT`: with the probe the poll frame that `AME` selects is sent; without it `CONN` is cleared and the result is
false at once (R126). The latches written there in `IDLE` are R123's (DEDUCED, log entry 9), the condition recorded is that
of R86 and R138, and its record a ghost log of the model (log entry 11). -/
def Obligations.ConnectProbesOrFails : Prop :=
  ∀ (s : State) (a b : Byte), s.fsm = .idle →
    (s.params.connectProbe = true →
      exec (.connect a b) s = .next { s with
        curOp := .connect, opa := a, opb := b, fsm := .xfer
        trace := s.trace ++ [if s.ame then .xferReq (rom s.params .pollA) 21 else .xferReq (rom s.params .pollD) 5] }) ∧
    (s.params.connectProbe = false →
      exec (.connect a b) s = .next { s with
        conn := false, curOp := .connect, opa := a, opb := b
        trace := s.trace ++ [.ret (.bool false)], conditions := s.conditions ++ [.connectionCheckFailure] })

/-- `POLL`: the frame that `AME` selects is sent and the snapshot is not touched yet (R127). `POLL0` is `POLL 0, 0`
(R74, R91). -/
def Obligations.PollSendsTheSelectedFrame : Prop :=
  ∀ s : State, s.fsm = .idle →
    (∀ a b : Byte, exec (.poll a b) s = .next { s with
      curOp := .poll, opa := a, opb := b, fsm := .xfer
      trace := s.trace ++ [if s.ame then .xferReq (rom s.params .pollA) 21 else .xferReq (rom s.params .pollD) 5] }) ∧
    exec .poll0 s = .next { s with
      curOp := .poll, opa := 0#8, opb := 0#8, fsm := .xfer
      trace := s.trace ++ [if s.ame then .xferReq (rom s.params .pollA) 21 else .xferReq (rom s.params .pollD) 5] }

/-- `ENABLE_ANALOG` and `DISABLE_ANALOG` begin at step 0 with `F_ENTER_CFG` and no delay (R128). -/
def Obligations.HandshakesStartWithEnterConfig : Prop :=
  ∀ (s : State) (a b : Byte), s.fsm = .idle →
    exec (.enableAnalog a b) s = .next { s with
      curOp := .enableAnalog, opa := a, opb := b, stepIx := 0#3, fsm := .xfer
      trace := s.trace ++ [.xferReq [0x01#8, 0x43#8, 0x00#8, 0x01#8, 0x00#8] 5] } ∧
    exec (.disableAnalog a b) s = .next { s with
      curOp := .disableAnalog, opa := a, opb := b, stepIx := 0#3, fsm := .xfer
      trace := s.trace ++ [.xferReq [0x01#8, 0x43#8, 0x00#8, 0x01#8, 0x00#8] 5] }

/-! ### Wire frames -/

/-- Each of the eight frames (F_POLL_D, F_POLL_A, F_ENTER_CFG, F_SET_ANALOG, F_ENABLE_MOTOR, F_CFG_PRESSURE,
F_EXIT_CFG, F_SET_DIGITAL), where the operation in progress selects it and no exchange is unanswered, is sent: one
request with the ROM's bytes and the frame's length, and nothing else changes but `fsm` (R76). In `IDLE`, where no
operation is in progress, the selection by the latches as they stand is the model's choice (log entry 17). -/
def Obligations.SelectedFramesAreSent : Prop :=
  ∀ (s : State) (fid : Fid), s.fsm ≠ .xfer → s.selected = some fid →
    exec fid.instr s = .next { s with fsm := .xfer, trace := s.trace ++ [.xferReq (rom s.params fid) fid.len] }

/-- A frame is not sent while an exchange is unanswered, and no frame but the selected one is sent. That the model
refuses there is its choice (log entry 7; in `IDLE` log entry 17). -/
def Obligations.OtherFramesAreNotSent : Prop :=
  ∀ (s : State) (fid : Fid),
    (s.fsm = .xfer → exec fid.instr s = .refused .exchangeOutstanding) ∧
    (s.fsm ≠ .xfer → s.selected ≠ some fid → exec fid.instr s = .refused .frameNotSelected)

/-- The bytes the eight instructions send under the default parameters, where each is selected (R77 to R84; the
padding of F_POLL_A and the bytes of F_SET_DIGITAL are defaults of the spec, D4 and D6). -/
def Obligations.DefaultFrameBytes : Prop :=
  rom Params.default .pollD = [0x01#8, 0x42#8, 0x00#8, 0x00#8, 0x00#8] ∧
  rom Params.default .pollA = [0x01#8, 0x42#8] ++ List.replicate 19 0x00#8 ∧
  rom Params.default .enterCfg = [0x01#8, 0x43#8, 0x00#8, 0x01#8, 0x00#8] ∧
  rom Params.default .setAnalog = [0x01#8, 0x44#8, 0x00#8, 0x01#8, 0x03#8, 0x00#8, 0x00#8, 0x00#8, 0x00#8] ∧
  rom Params.default .enableMotor = [0x01#8, 0x4D#8, 0x00#8, 0x00#8, 0x01#8, 0xFF#8, 0xFF#8, 0xFF#8, 0xFF#8] ∧
  rom Params.default .cfgPressure = [0x01#8, 0x4F#8, 0x00#8, 0xFF#8, 0xFF#8, 0x03#8, 0x00#8, 0x00#8, 0x00#8] ∧
  rom Params.default .exitCfg = [0x01#8, 0x43#8, 0x00#8, 0x00#8, 0x5A#8, 0x5A#8, 0x5A#8, 0x5A#8, 0x5A#8] ∧
  rom Params.default .setDigital = [0x01#8, 0x44#8, 0x00#8, 0x00#8, 0x03#8, 0x00#8, 0x00#8, 0x00#8, 0x00#8]

/-! ### Completion of an exchange -/

/-- RESP_DIGITAL, RESP_ANALOG and RESP_UNEXPECTED answering a `POLL` (R129, R94, R101, R102, R103): the flags, the
buttons bit by bit, the analog bytes, what is held, and that nothing else changes but `fsm` and the records. -/
def Obligations.PollAnswerWritesTheSnapshot : Prop :=
  ∀ (s : State) (cls : RespClass) (rx : Frame),
    s.fsm = .xfer → s.curOp = .poll → rx.length = (if s.ame then 21 else 5) → s.params.wf = true →
    ∃ t, exec (cls.instr rx) s = .next t ∧
      t.snap.dv = decide (cls = .digital ∨ cls = .analog) ∧
      t.snap.av = decide (cls = .analog ∧ s.ame = true) ∧
      (∀ x y, rx[3]? = some x → rx[4]? = some y → t.snap.dv = true → ∀ b : Nat, b < 8 →
        t.snap.btn[b]? = some (!x.getLsbD b) ∧ t.snap.btn[8 + b]? = some (!y.getLsbD b)) ∧
      (t.snap.dv = false → t.snap.btn = s.snap.btn) ∧
      (t.snap.av = true → ∀ i : Fin 16, rx[5 + i.val]? = some (t.snap.ana.get (s.params.analogMap.get i))) ∧
      (t.snap.av = false → t.snap.ana = s.snap.ana) ∧
      t = { s with
        snap := t.snap, fsm := .idle, trace := s.trace ++ [.xferResp (.ok rx), .ret (.snap t.snap)]
        conditions := s.conditions ++ (if cls = .unexpected then [.unexpectedResponse] else []) }

/-- RESP_DIGITAL, RESP_ANALOG and RESP_UNEXPECTED answering the probe of `CONNECT` (R130): `CONN` is the verdict, the
snapshot is not written. -/
def Obligations.ProbeAnswerSetsConnected : Prop :=
  ∀ (s : State) (cls : RespClass) (rx : Frame),
    s.fsm = .xfer → s.curOp = .connect → rx.length = (if s.ame then 21 else 5) →
    exec (cls.instr rx) s = .next { s with
      conn := decide (cls ≠ .unexpected), fsm := .idle
      trace := s.trace ++ [.xferResp (.ok rx), .ret (.bool (decide (cls ≠ .unexpected)))]
      conditions := s.conditions ++ (if cls = .unexpected then [.connectionCheckFailure] else []) }

/-- A transport fault in `POLL` clears both flags and holds every field; in `CONNECT` it clears `CONN`; each is
recorded as the operation's own condition (R96, R130, R137, R138, R139). -/
def Obligations.TransportFaultsAreConverted : Prop :=
  ∀ s : State, s.fsm = .xfer →
    (s.curOp = .poll → step (s.offer (.xferResp .fail)) = .next { s with
      snap := { s.snap with dv := false, av := false }, fsm := .idle
      trace := s.trace ++ [.xferResp .fail, .ret (.snap { s.snap with dv := false, av := false })]
      conditions := s.conditions ++ [.unexpectedResponse] }) ∧
    (s.curOp = .connect → step (s.offer (.xferResp .fail)) = .next { s with
      conn := false, fsm := .idle, trace := s.trace ++ [.xferResp .fail, .ret (.bool false)]
      conditions := s.conditions ++ [.connectionCheckFailure] })

/-- An answer of the wrong length has, in every operation, the effect of `Fail`: the steps on the two end alike, results
and requests included, but for the recorded response. The spec's decision D18. -/
def Obligations.WrongLengthActsAsFail : Prop :=
  ∀ (s : State) (rx : Frame), s.fsm = .xfer → rx.length ≠ s.xferLen →
    mapNext (fun t => { t with trace := t.trace.filter (!·.isResp) }) (step (s.offer (.xferResp (.ok rx)))) =
      mapNext (fun t => { t with trace := t.trace.filter (!·.isResp) }) (step (s.offer (.xferResp .fail)))

/-- A failed exchange has in `POLL` exactly the effect of an unexpected discriminator: the states after them differ in
the recorded response only, so that the host, which sees results, cannot tell them apart (R96). -/
def Obligations.FailedPollLooksUnexpected : Prop :=
  ∀ (s : State) (rx : Frame) (d : Byte), s.fsm = .xfer → s.curOp = .poll → rx.length = (if s.ame then 21 else 5) →
    rx[1]? = some d → d ≠ 0x41#8 → d ≠ 0x73#8 →
    mapNext (fun t => { t with trace := t.trace.filter (!·.isResp) }) (step (s.offer (.xferResp .fail))) =
      mapNext (fun t => { t with trace := t.trace.filter (!·.isResp) }) (step (s.offer (.xferResp (.ok rx))))

/-- The three branches of a handshake step's answer (R131): (a) abort with `AME` unchanged, from any step; (b) success
at the last step, the only write of `AME`; (c) the delay before the next step. -/
def Obligations.HandshakeAnswerHasThreeBranches : Prop :=
  ∀ (s : State) (r : Answer) (fid : Fid), s.fsm = .xfer → (s.curOp = .enableAnalog ∨ s.curOp = .disableAnalog) →
    (handshakeSeq s.curOp)[s.stepIx.toNat]? = some fid →
    ((r = .fail ∨ ∃ rx, r = .ok rx ∧ rx.length = fid.len ∧ verdict s.params.validator fid rx = false) →
      step (s.offer (.xferResp r)) = .next { s with
        stepIx := 0#3, fsm := .idle, trace := s.trace ++ [.xferResp r, .ret (.bool false)]
        conditions := s.conditions ++ [.configurationSequenceFailure s.stepIx] }) ∧
    (∀ rx, r = .ok rx → rx.length = fid.len → verdict s.params.validator fid rx = true →
      (s.stepIx.toNat + 1 = (handshakeSeq s.curOp).length →
        step (s.offer (.xferResp r)) = .next { s with
          ame := decide (s.curOp = .enableAnalog), stepIx := 0#3, fsm := .idle
          trace := s.trace ++ [.xferResp r, .ret (.bool true)] }) ∧
      (s.stepIx.toNat + 1 ≠ (handshakeSeq s.curOp).length →
        step (s.offer (.xferResp r)) = .next { s with
          fsm := .delay, trace := s.trace ++ [.xferResp r, .delay s.params.stepDelay] }))

/-- A received string is not classified in a handshake: whatever class its byte at offset 1 spells, it has the effect
of the handshake's answer (R35, R56). That a response instruction runs so there is the model's choice (log entry 7). -/
def Obligations.HandshakeAnswersAreNotClassified : Prop :=
  ∀ (s : State) (cls : RespClass) (rx : Frame), s.fsm = .xfer →
    (s.curOp = .enableAnalog ∨ s.curOp = .disableAnalog) →
    exec (cls.instr rx) s = step (s.offer (.xferResp (.ok rx)))

/-- The completion of a delay advances `step` by one, to a step of the table, and sends that step's frame (R132). -/
def Obligations.DelayDoneSendsTheNextFrame : Prop :=
  ∀ s : State, s.fsm = .delay → s.sequenced = true →
    ∃ fid, (handshakeSeq s.curOp)[s.stepIx.toNat + 1]? = some fid ∧
      (s.stepIx + 1#3).toNat = s.stepIx.toNat + 1 ∧ s.stepIx.toNat + 1 ≤ (handshakeSeq s.curOp).length - 1 ∧
      step (s.offer .delayDone) = .next { s with
        stepIx := s.stepIx + 1#3, fsm := .xfer, trace := s.trace ++ [.xferReq (rom s.params fid) fid.len] }

/-! ### What is refused, and that nothing else is -/

/-- A command word with `op` in {6, 7} is refused in every state, whatever its other bits are (R70). -/
def Obligations.ReservedOpcodesAreRefused : Prop :=
  (∀ (s : State) (odd : Bool) (a b : Byte), exec (.reserved odd a b) s = .refused .reservedOpcode) ∧
  ∀ (s : State) (w : HostWord), 6 ≤ (h19Op w).toNat → step (s.offer (.cmd w)) = .refused .reservedOpcode

/-- A command of a named operation presented while another is in progress is refused; the refusal is the spec's decision
D16. -/
def Obligations.CommandsWhileBusyAreRefused : Prop :=
  ∀ (s : State) (w : HostWord), s.fsm ≠ .idle → (h19Op w).toNat < 6 →
    step (s.offer (.cmd w)) = .refused .commandWhileBusy

/-- In a state the transitions produce, an input event is given a next state exactly where the state accepts it: in
`IDLE` a command with `op` in 0..5 or a reset, in `XFER` a response, in `DELAY` the delay's end. So every answer of the
oracle is handled, and no data ends a run (R122, R146). -/
def Obligations.AcceptedInputsAndOnlyTheyAreRun : Prop :=
  ∀ (s : State) (e : Input), s.sequenced = true →
    ((∃ t, step (s.offer e) = .next t) ↔ s.accepts e = true)

/-- A response or a delay's end that was not asked for, and a reset during an operation, are refused by name. That the
model refuses, rather than ignores, the first two is its choice (log entry 7); the third is the spec's decision D26. -/
def Obligations.UnaskedInputsAreRefused : Prop :=
  ∀ s : State,
    (∀ r, s.fsm ≠ .xfer → step (s.offer (.xferResp r)) = .refused .unsolicitedInput) ∧
    (s.fsm ≠ .delay → step (s.offer .delayDone) = .refused .unsolicitedInput) ∧
    (s.fsm ≠ .idle → step (s.offer .reset) = .refused .resetWhileBusy)

/-- No instruction and no step ever faults, in any state: no read leaves the bytes the exchange filled (R41), and the
block has no fault state. -/
def Obligations.NothingFaults : Prop :=
  ∀ (s : State) (f : Fault), (∀ i : Instr, exec i s ≠ .fault f) ∧ step s ≠ .fault f

/-! ### Reset -/

/-- The values the source gives: the validity flags both start false and `analog_mode_enabled` is false. -/
def Obligations.ResetFlagsAndModeAreFalse : Prop :=
  State.reset.snap.dv = false ∧ State.reset.snap.av = false ∧ State.reset.ame = false

/-- The other values of R30's table (the spec's decision D14): not connected, idle, step 0; nothing was sent. From
there `IS_CONNECTED` returns false and `POLL` sends the five-byte frame (R159). -/
def Obligations.ResetIsIdleAndDisconnected : Prop :=
  State.reset.conn = false ∧ State.reset.fsm = .idle ∧ State.reset.stepIx = 0#3 ∧ State.reset.trace = [] ∧
  (∃ t, step (State.reset.offer (.cmd 0x20000#19)) = .next t ∧ t.trace = [.ret (.bool false)]) ∧
  (∃ t, step (State.reset.offer (.cmd 0x30000#19)) = .next t ∧
    t.trace = [.xferReq [0x01#8, 0x42#8, 0x00#8, 0x00#8, 0x00#8] 5])

/-- The invariants hold right after reset. That the reset parameters are legal rests on the default `ANALOG_MAP`, of which
the source gives two entries (PRESUMED, log entry 13). -/
def Obligations.ResetMeetsTheInvariants : Prop :=
  State.reset.inv = true ∧ State.reset.alternating = true ∧ State.reset.alphabetLegal = true

/-- A reset from `IDLE` puts every piece of the block's state at its reset value, sends nothing and keeps the
parameters (R156, R157). `BTN`, `ANA`, `cur_op`, `opa`, `opb` have no value there and nothing is said of them. -/
def Obligations.ResetFromIdleRestoresTheResetState : Prop :=
  ∀ s : State, s.fsm = .idle →
    ∃ t, step (s.offer .reset) = .next t ∧
      t.snap.dv = false ∧ t.snap.av = false ∧ t.ame = false ∧ t.conn = false ∧ t.fsm = .idle ∧ t.stepIx = 0#3 ∧
      t.params = s.params ∧ t.inbox = s.inbox ∧ t.trace = s.trace ∧ t.conditions = s.conditions

/-! ### Invariants of every step -/

/-- Every step keeps the invariant: the sequencing triple stays one that the transitions produce (`step` within its
table, 0 in `IDLE`), `DV = 0, AV = 1` does not arise, the parameters stay legal, and no transport fault shows as
itself. -/
def Obligations.StepKeepsTheInvariant : Prop :=
  ∀ s t : State, s.inv = true → step s = .next t → t.inv = true

/-- Every step keeps the strict alternation of requests and responses, with nothing between a request and its response
and a request unanswered exactly in `XFER`; and the trace is only ever extended (R44, R49, R53). -/
def Obligations.StepKeepsRequestsAnswered : Prop :=
  ∀ s t : State, s.alternating = true → step s = .next t → t.alternating = true ∧ s.trace <+: t.trace

/-- Every step keeps the transmit alphabet: whatever was sent is one of the eight frames, with its length (R72). -/
def Obligations.StepKeepsTheTransmitAlphabet : Prop :=
  ∀ s t : State, s.alphabetLegal = true → step s = .next t → t.alphabetLegal = true

/-- The parameters and the frame ROM are constant: no step changes them (R21, R32, R47). -/
def Obligations.ParametersAreConstant : Prop :=
  ∀ s t : State, step s = .next t → t.params = s.params ∧ ∀ fid, rom t.params fid = rom s.params fid

/-- `AME` changes only at the validated last step of a handshake, to that handshake's value, or at a reset (R20,
R117). -/
def Obligations.OnlyAValidatedHandshakeChangesAnalogMode : Prop :=
  ∀ s t : State, step s = .next t → t.ame ≠ s.ame →
    (∃ rx rest, s.inbox = .xferResp (.ok rx) :: rest ∧ s.fsm = .xfer ∧ rx.length = 9 ∧
      verdict s.params.validator .exitCfg rx = true ∧
      ((s.curOp = .enableAnalog ∧ s.stepIx.toNat = 4 ∧ t.ame = true) ∨
        (s.curOp = .disableAnalog ∧ s.stepIx.toNat = 2 ∧ t.ame = false))) ∨
    (∃ rest, s.inbox = .reset :: rest ∧ s.fsm = .idle ∧ t.ame = false)

/-- `CONN` changes only in `CONNECT` (its command without the probe, the probe's answer), in `DISCONNECT`, or at a
reset (R19, R89). -/
def Obligations.OnlyConnectAndDisconnectChangeConnected : Prop :=
  ∀ s t : State, step s = .next t → t.conn ≠ s.conn →
    (∃ w rest, s.inbox = .cmd w :: rest ∧ s.fsm = .idle ∧ t.conn = false ∧
      ((h19Op w).toNat = 1 ∨ ((h19Op w).toNat = 0 ∧ s.params.connectProbe = false))) ∨
    (∃ r rest, s.inbox = .xferResp r :: rest ∧ s.fsm = .xfer ∧ s.curOp = .connect) ∨
    (∃ rest, s.inbox = .reset :: rest ∧ s.fsm = .idle ∧ t.conn = false)

/-- The snapshot changes only at the completion of a `POLL`, in the step that returns it, or at a reset; between
them the host can read it undisturbed (R18, R29). -/
def Obligations.OnlyPollChangesTheSnapshot : Prop :=
  ∀ s t : State, step s = .next t → t.snap ≠ s.snap →
    (∃ r rest, s.inbox = .xferResp r :: rest ∧ s.fsm = .xfer ∧ s.curOp = .poll ∧ t.fsm = .idle ∧
      t.trace = s.trace ++ [.xferResp r, .ret (.snap t.snap)]) ∨
    (∃ rest, s.inbox = .reset :: rest ∧ s.fsm = .idle)

/-! ### Whole operations -/

/-- The transitions and the big-step rules agree: from `IDLE`, for every operation, operands and answers of the
transport, the machine's steps end in the very state, trace and records that the big-step rule gives (R11, R135). -/
def Obligations.SmallStepsAgreeWithBigStep : Prop :=
  ∀ (op : Op) (a b : Byte) (orc : Nat → Answer) (s : State), s.fsm = .idle →
    runOp op a b orc s = .next (bigStep op a b orc s)

/-- For every answer of the oracle every operation completes: it ends in `IDLE` with `step = 0` and one `Ret`
(R145, R146, R174). -/
def Obligations.EveryOperationEndsIdle : Prop :=
  ∀ (op : Op) (a b : Byte) (orc : Nat → Answer) (s : State), s.cleanEntry = true →
    ∃ t, runOp op a b orc s = .next t ∧ t.cleanEntry = true ∧
      (∃ v, t.trace.getLast? = some (.ret v)) ∧ t.trace.countP Event.isRet = s.trace.countP Event.isRet + 1

/-- The number of exchanges and delays of each operation (R173). -/
def Obligations.ExchangesAndDelaysAreBounded : Prop :=
  ∀ (op : Op) (a b : Byte) (orc : Nat → Answer) (s : State), s.fsm = .idle →
    ∃ t n d, runOp op a b orc s = .next t ∧
      t.trace.countP Event.isReq = s.trace.countP Event.isReq + n ∧
      t.trace.countP Event.isDelay = s.trace.countP Event.isDelay + d ∧
      match op with
      | .connect => n = (if s.params.connectProbe then 1 else 0) ∧ d = 0
      | .disconnect => n = 0 ∧ d = 0
      | .isConnected => n = 0 ∧ d = 0
      | .poll => n = 1 ∧ d = 0
      | .enableAnalog => 1 ≤ n ∧ n ≤ 5 ∧ d + 1 = n
      | .disableAnalog => 1 ≤ n ∧ n ≤ 3 ∧ d + 1 = n

/-- At most one condition arises per operation, which ends in `IDLE` with `step = 0` either way, having begun with
`step = 0` (which `IDLE` implies in every sequenced state, StepKeepsTheInvariant): with none the operation succeeded; the
one that arises is the operation's own, with the effects of its row in R144: in `POLL` the flags both 0, every field,
`CONN` and `AME` held, the result `SNAP`; in `CONNECT` `CONN` 0, `SNAP` and `AME` held, the result false; in a handshake
`SNAP`, `CONN` and `AME` held, the result false (R137, R138, R140, R143). -/
def Obligations.AtMostOneConditionPerOperation : Prop :=
  ∀ (op : Op) (a b : Byte) (orc : Nat → Answer) (s : State), s.fsm = .idle →
    ∃ t, runOp op a b orc s = .next t ∧ t.fsm = .idle ∧ (s.stepIx = 0#3 → t.stepIx = 0#3) ∧
      ((t.conditions = s.conditions ∧
        match op with
        | .poll => t.snap.dv = true
        | .connect => t.conn = true ∧ t.trace.getLast? = some (.ret (.bool true))
        | .enableAnalog => t.ame = true ∧ t.trace.getLast? = some (.ret (.bool true))
        | .disableAnalog => t.ame = false ∧ t.trace.getLast? = some (.ret (.bool true))
        | .disconnect => True
        | .isConnected => True) ∨
        match op with
        | .poll => t.conditions = s.conditions ++ [.unexpectedResponse] ∧
            t.snap = { s.snap with dv := false, av := false } ∧ t.conn = s.conn ∧ t.ame = s.ame ∧
            t.trace.getLast? = some (.ret (.snap t.snap))
        | .connect => t.conditions = s.conditions ++ [.connectionCheckFailure] ∧ t.conn = false ∧
            t.snap = s.snap ∧ t.ame = s.ame ∧ t.trace.getLast? = some (.ret (.bool false))
        | .enableAnalog => (∃ i, t.conditions = s.conditions ++ [.configurationSequenceFailure i]) ∧
            t.snap = s.snap ∧ t.conn = s.conn ∧ t.ame = s.ame ∧ t.trace.getLast? = some (.ret (.bool false))
        | .disableAnalog => (∃ i, t.conditions = s.conditions ++ [.configurationSequenceFailure i]) ∧
            t.snap = s.snap ∧ t.conn = s.conn ∧ t.ame = s.ame ∧ t.trace.getLast? = some (.ret (.bool false))
        | .disconnect => False
        | .isConnected => False)

/-- A handshake writes `AME` exactly where every step validates, and returns that as its result; it changes neither the
snapshot nor `CONN`, and runs whatever `AME` was (R112, R113, R116 to R118, R120). -/
def Obligations.HandshakeSucceedsIffEveryStepValidates : Prop :=
  ∀ (op : Op) (a b : Byte) (orc : Nat → Answer) (s : State), s.fsm = .idle →
    (op = .enableAnalog ∨ op = .disableAnalog) →
    ∃ t, runOp op a b orc s = .next t ∧
      t.ame = (if allValidate s.params.validator orc 0 (handshakeSeq op) then decide (op = .enableAnalog) else s.ame) ∧
      t.trace.getLast? = some (.ret (.bool (allValidate s.params.validator orc 0 (handshakeSeq op)))) ∧
      t.snap = s.snap ∧ t.conn = s.conn ∧ t.fsm = .idle ∧ t.stepIx = 0#3

/-- A handshake whose step `k` is the first that does not validate has `k + 1` exchanges, `k` delays, the result false,
and the failing step in the ghost log; nothing further is sent (R112, R116, R140). -/
def Obligations.FailedHandshakeStopsAtTheFailingStep : Prop :=
  ∀ (op : Op) (a b : Byte) (orc : Nat → Answer) (s : State) (k : Nat), s.fsm = .idle →
    (op = .enableAnalog ∨ op = .disableAnalog) → k < (handshakeSeq op).length →
    failsAt s.params.validator orc (handshakeSeq op) k = true →
    ∃ t, runOp op a b orc s = .next t ∧
      t.trace.countP Event.isReq = s.trace.countP Event.isReq + (k + 1) ∧
      t.trace.countP Event.isDelay = s.trace.countP Event.isDelay + k ∧
      t.trace.getLast? = some (.ret (.bool false)) ∧
      t.conditions = s.conditions ++ [.configurationSequenceFailure (BitVec.ofNat 3 k)] ∧ t.ame = s.ame

/-- `ENABLE_ANALOG` and then `DISABLE_ANALOG`, every step validating, from `AME = 0`: `AME` is 1 between and 0 after,
and the joint trace has eight exchanges and six delays, in order (R119, S10). -/
def Obligations.EnableThenDisableRestoresDigitalMode : Prop :=
  ∀ (a b a' b' : Byte) (orc orc' : Nat → Answer) (s : State), s.fsm = .idle → s.ame = false →
    allValidate s.params.validator orc 0 (handshakeSeq .enableAnalog) = true →
    allValidate s.params.validator orc' 0 (handshakeSeq .disableAnalog) = true →
    ∃ t u, runOp .enableAnalog a b orc s = .next t ∧ t.ame = true ∧
      runOp .disableAnalog a' b' orc' t = .next u ∧ u.ame = false ∧
      u.trace = s.trace ++ successTrace s.params orc 0 (handshakeSeq .enableAnalog) ++
        successTrace s.params orc' 0 (handshakeSeq .disableAnalog) ∧
      u.trace.countP Event.isReq = s.trace.countP Event.isReq + 8 ∧
      u.trace.countP Event.isDelay = s.trace.countP Event.isDelay + 6

/-! ### Laws of POLL -/

/-- Two consecutive polls with the same answer leave the same snapshot after the second as after the first (R98). -/
def Obligations.RepeatedPollLeavesTheSnapshot : Prop :=
  ∀ (a b a' b' : Byte) (orc orc' : Nat → Answer) (s : State), s.fsm = .idle → orc 0 = orc' 0 →
    ∃ t u, runOp .poll a b orc s = .next t ∧ runOp .poll a' b' orc' t = .next u ∧ u.snap = t.snap

/-- The rumble operands have no effect on the trace or on the end state apart from the two latches (R97). -/
def Obligations.RumbleOperandsHaveNoEffect : Prop :=
  ∀ (a b a' b' : Byte) (orc : Nat → Answer) (s : State),
    mapNext State.forgetOperands (runOp .poll a b orc s) = mapNext State.forgetOperands (runOp .poll a' b' orc s)

/-- A frame built from an intended snapshot, received by a poll in analog mode, gives exactly that snapshot with both
flags set, for every legal `ANALOG_MAP` (R109). -/
def Obligations.EncodedSnapshotIsPolledBack : Prop :=
  ∀ (a b b0 b2 : Byte) (btn : Vector Bool 16) (ana : Vector Byte 16) (orc : Nat → Answer) (s : State),
    s.fsm = .idle → s.ame = true → s.params.wf = true →
    orc 0 = .ok (encodeSnap s.params.analogMap b0 b2 btn ana) →
    ∃ t, runOp .poll a b orc s = .next t ∧ t.snap = { dv := true, av := true, btn := btn, ana := ana }

/-- The extraction is injective on the bytes it reads: two analog answers that give the same snapshot agree at offsets
3 to 20 (R109). -/
def Obligations.ExtractionIsInjective : Prop :=
  ∀ (a b : Byte) (rx rx' : Frame) (s t t' : State), s.fsm = .idle → s.ame = true → s.params.wf = true →
    rx.length = 21 → rx'.length = 21 → rx[1]? = some 0x73#8 → rx'[1]? = some 0x73#8 →
    runOp .poll a b (fun _ => .ok rx) s = .next t → runOp .poll a b (fun _ => .ok rx') s = .next t' →
    t.snap = t'.snap → ∀ k, 3 ≤ k → k ≤ 20 → rx[k]? = rx'[k]?

/-- Each of the sixteen bits is extracted alone and inverted; as whole bytes and as a word the buttons are the
complement of the two bytes, the byte at offset 4 above the byte at offset 3 (R67, R107). -/
def Obligations.ButtonWordIsTheComplement : Prop :=
  ∀ x y : Byte,
    (∀ b : Nat, b < 8 → (buttonsOf x y)[b]? = some (!x.getLsbD b) ∧ (buttonsOf x y)[8 + b]? = some (!y.getLsbD b)) ∧
    buttonWord (buttonsOf x y) = (y ^^^ 0xFF#8) ++ (x ^^^ 0xFF#8) ∧
    buttonByteA (buttonsOf x y) = x ^^^ 0xFF#8 ∧ buttonByteB (buttonsOf x y) = y ^^^ 0xFF#8

/-- Every named button, after a poll with either discriminator in either mode, is pressed exactly where its bit of its
response byte is clear (R101, R102, R108). -/
def Obligations.NamedButtonsAreActiveLow : Prop :=
  ∀ (a b : Byte) (button : Button) (rx : Frame) (v d : Byte) (s : State), s.fsm = .idle →
    rx.length = (if s.ame then 21 else 5) → rx[1]? = some d → (d = 0x41#8 ∨ d = 0x73#8) →
    rx[button.source.1]? = some v →
    ∃ t, runOp .poll a b (fun _ => .ok rx) s = .next t ∧ t.snap.dv = true ∧
      t.snap.button button = !v.getLsbD button.source.2

/-- After an analog poll in analog mode `left_x` is the byte at offset 7 and `left2_pressure` the byte at offset 19,
under every legal `ANALOG_MAP`; under the default map every named field is the byte at its own offset (R103; fourteen
of the sixteen offsets are the spec's default D5). -/
def Obligations.NamedAnalogFieldsComeFromTheirOffsets : Prop :=
  ∀ (a b : Byte) (rx : Frame) (s : State), s.fsm = .idle → s.ame = true → s.params.wf = true →
    rx.length = 21 → rx[1]? = some 0x73#8 →
    ∃ t, runOp .poll a b (fun _ => .ok rx) s = .next t ∧ t.snap.av = true ∧
      rx[7]? = some (t.snap.analog .leftX) ∧ rx[19]? = some (t.snap.analog .left2Pressure) ∧
      (s.params.analogMap = Params.default.analogMap →
        ∀ f : Analog, rx[f.defaultOffset]? = some (t.snap.analog f))

/-! ### What nothing depends on -/

/-- `CONN` gates nothing: a poll and a handshake do the same whatever it is, and leave it as it was (R89, R99, R120). -/
def Obligations.ConnectedGatesNothing : Prop :=
  ∀ (op : Op) (a b : Byte) (orc : Nat → Answer) (s : State) (c : Bool),
    (op = .poll ∨ op = .enableAnalog ∨ op = .disableAnalog) →
    runOp op a b orc { s with conn := c } = mapNext (fun t => { t with conn := c }) (runOp op a b orc s)

/-- No rule reads the transport's clock mode or frequency: a step with others is the same step (R42, R48). -/
def Obligations.TransportConfigurationIsUnread : Prop :=
  ∀ (s : State) (mode freq : Nat), step (s.withTransport mode freq) = mapNext (·.withTransport mode freq) (step s)

/-! ### The textual form -/

/-- Lines of the spec's programs assemble to the command words written beside them (R73, R74). -/
def Obligations.ProgramLinesAssemble : Prop :=
  assembleLine "connect".toList = some 0x00000#19 ∧
  assembleLine "disconnect".toList = some 0x10000#19 ∧
  assembleLine "is_connected".toList = some 0x20000#19 ∧
  assembleLine "poll 0x10, 0x20".toList = some 0x31020#19 ∧
  assembleLine "poll 7, 9".toList = some 0x30709#19 ∧
  assembleLine "poll ; digital".toList = some 0x30000#19 ∧
  assembleLine "enable_analog".toList = some 0x40000#19 ∧
  assembleLine "disable_analog".toList = some 0x50000#19 ∧
  assembleLine "poll 256, 0".toList = none
end

