-- ==== Sys2Proof/Laws/State.lean ====
section
/-! SUPPORT. One lemma per field per named update of the state, so that no later proof unfolds a record update. -/

namespace Sys2Proof.Machine

variable (s : State)

/-! ### `emit` -/

@[simp] theorem State.emit_snap (e : Event) : (s.emit e).snap = s.snap := rfl
@[simp] theorem State.emit_conn (e : Event) : (s.emit e).conn = s.conn := rfl
@[simp] theorem State.emit_ame (e : Event) : (s.emit e).ame = s.ame := rfl
@[simp] theorem State.emit_fsm (e : Event) : (s.emit e).fsm = s.fsm := rfl
@[simp] theorem State.emit_curOp (e : Event) : (s.emit e).curOp = s.curOp := rfl
@[simp] theorem State.emit_opa (e : Event) : (s.emit e).opa = s.opa := rfl
@[simp] theorem State.emit_opb (e : Event) : (s.emit e).opb = s.opb := rfl
@[simp] theorem State.emit_stepIx (e : Event) : (s.emit e).stepIx = s.stepIx := rfl
@[simp] theorem State.emit_params (e : Event) : (s.emit e).params = s.params := rfl
@[simp] theorem State.emit_inbox (e : Event) : (s.emit e).inbox = s.inbox := rfl
@[simp] theorem State.emit_trace (e : Event) : (s.emit e).trace = s.trace ++ [e] := rfl
@[simp] theorem State.emit_conditions (e : Event) : (s.emit e).conditions = s.conditions := rfl

/-! ### `signal` -/

@[simp] theorem State.signal_snap (c : Condition) : (s.signal c).snap = s.snap := rfl
@[simp] theorem State.signal_conn (c : Condition) : (s.signal c).conn = s.conn := rfl
@[simp] theorem State.signal_ame (c : Condition) : (s.signal c).ame = s.ame := rfl
@[simp] theorem State.signal_fsm (c : Condition) : (s.signal c).fsm = s.fsm := rfl
@[simp] theorem State.signal_curOp (c : Condition) : (s.signal c).curOp = s.curOp := rfl
@[simp] theorem State.signal_opa (c : Condition) : (s.signal c).opa = s.opa := rfl
@[simp] theorem State.signal_opb (c : Condition) : (s.signal c).opb = s.opb := rfl
@[simp] theorem State.signal_stepIx (c : Condition) : (s.signal c).stepIx = s.stepIx := rfl
@[simp] theorem State.signal_params (c : Condition) : (s.signal c).params = s.params := rfl
@[simp] theorem State.signal_inbox (c : Condition) : (s.signal c).inbox = s.inbox := rfl
@[simp] theorem State.signal_trace (c : Condition) : (s.signal c).trace = s.trace := rfl
@[simp] theorem State.signal_conditions (c : Condition) : (s.signal c).conditions = s.conditions ++ [c.converted s.curOp s.stepIx] := rfl

/-! ### `accept` -/

@[simp] theorem State.accept_snap (op : Op) (a b : Byte) : (s.accept op a b).snap = s.snap := rfl
@[simp] theorem State.accept_conn (op : Op) (a b : Byte) : (s.accept op a b).conn = s.conn := rfl
@[simp] theorem State.accept_ame (op : Op) (a b : Byte) : (s.accept op a b).ame = s.ame := rfl
@[simp] theorem State.accept_fsm (op : Op) (a b : Byte) : (s.accept op a b).fsm = s.fsm := rfl
@[simp] theorem State.accept_curOp (op : Op) (a b : Byte) : (s.accept op a b).curOp = op := rfl
@[simp] theorem State.accept_opa (op : Op) (a b : Byte) : (s.accept op a b).opa = a := rfl
@[simp] theorem State.accept_opb (op : Op) (a b : Byte) : (s.accept op a b).opb = b := rfl
@[simp] theorem State.accept_stepIx (op : Op) (a b : Byte) : (s.accept op a b).stepIx = s.stepIx := rfl
@[simp] theorem State.accept_params (op : Op) (a b : Byte) : (s.accept op a b).params = s.params := rfl
@[simp] theorem State.accept_inbox (op : Op) (a b : Byte) : (s.accept op a b).inbox = s.inbox := rfl
@[simp] theorem State.accept_trace (op : Op) (a b : Byte) : (s.accept op a b).trace = s.trace := rfl
@[simp] theorem State.accept_conditions (op : Op) (a b : Byte) : (s.accept op a b).conditions = s.conditions := rfl

/-! ### `finish` -/

@[simp] theorem State.finish_snap (v : RetVal) : (s.finish v).snap = s.snap := rfl
@[simp] theorem State.finish_conn (v : RetVal) : (s.finish v).conn = s.conn := rfl
@[simp] theorem State.finish_ame (v : RetVal) : (s.finish v).ame = s.ame := rfl
@[simp] theorem State.finish_fsm (v : RetVal) : (s.finish v).fsm = .idle := rfl
@[simp] theorem State.finish_curOp (v : RetVal) : (s.finish v).curOp = s.curOp := rfl
@[simp] theorem State.finish_opa (v : RetVal) : (s.finish v).opa = s.opa := rfl
@[simp] theorem State.finish_opb (v : RetVal) : (s.finish v).opb = s.opb := rfl
@[simp] theorem State.finish_stepIx (v : RetVal) : (s.finish v).stepIx = s.stepIx := rfl
@[simp] theorem State.finish_params (v : RetVal) : (s.finish v).params = s.params := rfl
@[simp] theorem State.finish_inbox (v : RetVal) : (s.finish v).inbox = s.inbox := rfl
@[simp] theorem State.finish_trace (v : RetVal) : (s.finish v).trace = s.trace ++ [.ret v] := rfl
@[simp] theorem State.finish_conditions (v : RetVal) : (s.finish v).conditions = s.conditions := rfl

/-! ### `construct` -/

@[simp] theorem State.construct_snap : s.construct.snap = State.reset.snap := rfl
@[simp] theorem State.construct_conn : s.construct.conn = false := rfl
@[simp] theorem State.construct_ame : s.construct.ame = false := rfl
@[simp] theorem State.construct_fsm : s.construct.fsm = .idle := rfl
@[simp] theorem State.construct_curOp : s.construct.curOp = .connect := rfl
@[simp] theorem State.construct_opa : s.construct.opa = 0#8 := rfl
@[simp] theorem State.construct_opb : s.construct.opb = 0#8 := rfl
@[simp] theorem State.construct_stepIx : s.construct.stepIx = 0#3 := rfl
@[simp] theorem State.construct_params : s.construct.params = s.params := rfl
@[simp] theorem State.construct_inbox : s.construct.inbox = s.inbox := rfl
@[simp] theorem State.construct_trace : s.construct.trace = s.trace := rfl
@[simp] theorem State.construct_conditions : s.construct.conditions = s.conditions := rfl

/-! ### `offer` -/

@[simp] theorem State.offer_snap (e : Input) : (s.offer e).snap = s.snap := rfl
@[simp] theorem State.offer_conn (e : Input) : (s.offer e).conn = s.conn := rfl
@[simp] theorem State.offer_ame (e : Input) : (s.offer e).ame = s.ame := rfl
@[simp] theorem State.offer_fsm (e : Input) : (s.offer e).fsm = s.fsm := rfl
@[simp] theorem State.offer_curOp (e : Input) : (s.offer e).curOp = s.curOp := rfl
@[simp] theorem State.offer_opa (e : Input) : (s.offer e).opa = s.opa := rfl
@[simp] theorem State.offer_opb (e : Input) : (s.offer e).opb = s.opb := rfl
@[simp] theorem State.offer_stepIx (e : Input) : (s.offer e).stepIx = s.stepIx := rfl
@[simp] theorem State.offer_params (e : Input) : (s.offer e).params = s.params := rfl
@[simp] theorem State.offer_inbox (e : Input) : (s.offer e).inbox = e :: s.inbox := rfl
@[simp] theorem State.offer_trace (e : Input) : (s.offer e).trace = s.trace := rfl
@[simp] theorem State.offer_conditions (e : Input) : (s.offer e).conditions = s.conditions := rfl

/-! ### `signalIf` -/

@[simp] theorem State.signalIf_true (c : Condition) : s.signalIf true c = s.signal c := rfl
@[simp] theorem State.signalIf_false (c : Condition) : s.signalIf false c = s := rfl
@[simp] theorem State.signalIf_snap (q : Bool) (c : Condition) : (s.signalIf q c).snap = s.snap := by cases q <;> rfl
@[simp] theorem State.signalIf_conn (q : Bool) (c : Condition) : (s.signalIf q c).conn = s.conn := by cases q <;> rfl
@[simp] theorem State.signalIf_ame (q : Bool) (c : Condition) : (s.signalIf q c).ame = s.ame := by cases q <;> rfl
@[simp] theorem State.signalIf_fsm (q : Bool) (c : Condition) : (s.signalIf q c).fsm = s.fsm := by cases q <;> rfl
@[simp] theorem State.signalIf_curOp (q : Bool) (c : Condition) : (s.signalIf q c).curOp = s.curOp := by cases q <;> rfl
@[simp] theorem State.signalIf_opa (q : Bool) (c : Condition) : (s.signalIf q c).opa = s.opa := by cases q <;> rfl
@[simp] theorem State.signalIf_opb (q : Bool) (c : Condition) : (s.signalIf q c).opb = s.opb := by cases q <;> rfl
@[simp] theorem State.signalIf_stepIx (q : Bool) (c : Condition) : (s.signalIf q c).stepIx = s.stepIx := by cases q <;> rfl
@[simp] theorem State.signalIf_params (q : Bool) (c : Condition) : (s.signalIf q c).params = s.params := by cases q <;> rfl
@[simp] theorem State.signalIf_inbox (q : Bool) (c : Condition) : (s.signalIf q c).inbox = s.inbox := by cases q <;> rfl
@[simp] theorem State.signalIf_trace (q : Bool) (c : Condition) : (s.signalIf q c).trace = s.trace := by cases q <;> rfl

@[simp] theorem State.signalIf_conditions (q : Bool) (c : Condition) :
    (s.signalIf q c).conditions = s.conditions ++ if q then [c.converted s.curOp s.stepIx] else [] := by
  cases q <;> simp [State.signalIf, State.signal]

/-! ### Conversion of conditions -/

@[simp] theorem converted_unexpectedResponse (op : Op) (i : BitVec 3) :
    Condition.unexpectedResponse.converted op i = .unexpectedResponse := rfl
@[simp] theorem converted_connectionCheckFailure (op : Op) (i : BitVec 3) :
    Condition.connectionCheckFailure.converted op i = .connectionCheckFailure := rfl
@[simp] theorem converted_configurationSequenceFailure (op : Op) (i j : BitVec 3) :
    (Condition.configurationSequenceFailure j).converted op i = .configurationSequenceFailure j := rfl
@[simp] theorem converted_transportFault_poll (i : BitVec 3) :
    Condition.transportFault.converted .poll i = .unexpectedResponse := rfl
@[simp] theorem converted_transportFault_connect (i : BitVec 3) :
    Condition.transportFault.converted .connect i = .connectionCheckFailure := rfl
@[simp] theorem converted_transportFault_enableAnalog (i : BitVec 3) :
    Condition.transportFault.converted .enableAnalog i = .configurationSequenceFailure i := rfl
@[simp] theorem converted_transportFault_disableAnalog (i : BitVec 3) :
    Condition.transportFault.converted .disableAnalog i = .configurationSequenceFailure i := rfl

/-! ### Environment -/

@[simp] theorem andThen_next (f : State → Host.Outcome State Fault Refusal) : andThen (.next s) f = f s := rfl
@[simp] theorem andThen_fault (r : Fault) (f : State → Host.Outcome State Fault Refusal) :
    andThen (.fault r) f = .fault r := rfl
@[simp] theorem andThen_refused (r : Refusal) (f : State → Host.Outcome State Fault Refusal) :
    andThen (.refused r) f = .refused r := rfl
@[simp] theorem mapNext_next (f : State → State) : mapNext f (.next s) = .next (f s) := rfl
@[simp] theorem mapNext_fault (f : State → State) (r : Fault) : mapNext f (.fault r) = .fault r := rfl
@[simp] theorem mapNext_refused (f : State → State) (r : Refusal) : mapNext f (.refused r) = .refused r := rfl

end Sys2Proof.Machine
end

