-- ==== Sys2Proof/Laws/Extract.lean ====
section
/-! SUPPORT. What the extractor gives: each button bit, each analog byte, and that no read leaves the received string
(R41, R100 to R110). -/

namespace Sys2Proof.Machine

theorem rxByte_of_getElem? {rx : Frame} {k : Nat} {v : Byte} (h : rx[k]? = some v) : rxByte rx k = .ok v := by
  simp [rxByte, h]

theorem rxByte_of_lt {rx : Frame} {k : Nat} (h : k < rx.length) : rxByte rx k = .ok (rx.getD k 0#8) := by
  simp [rxByte, h]

theorem buttonsOf_low (x y : Byte) (i : Fin 16) (h : i.val < 8) : (buttonsOf x y).get i = !x.getLsbD i.val := by
  simp [buttonsOf, Vector.get_eq_getElem, h]

theorem buttonsOf_high (x y : Byte) (i : Fin 16) (h : 8 ≤ i.val) :
    (buttonsOf x y).get i = !y.getLsbD (i.val - 8) := by
  simp [buttonsOf, Vector.get_eq_getElem, Nat.not_lt.2 h]

/-- `DecodeDigital` reads two offsets, both in every poll frame. -/
theorem decodeDigital_of_length {rx : Frame} (h : 5 ≤ rx.length) :
    decodeDigital rx = .ok (buttonsOf (rx.getD 3 0#8) (rx.getD 4 0#8)) := by
  rw [decodeDigital, rxByte_of_lt (by omega), rxByte_of_lt (by omega)]

theorem decodeAnalogAt_of_length {map : Vector (Fin 16) 16} {rx : Frame} (h : rx.length = 21) (is : List (Fin 16))
    (ana : Vector Byte 16) :
    decodeAnalogAt map rx is ana =
      .ok (is.foldl (fun acc i => acc.set (map.get i).val (rx.getD (5 + i.val) 0#8) (map.get i).isLt) ana) := by
  induction is generalizing ana with
  | nil => rfl
  | cons i is ih =>
    have hi : 5 + i.val < rx.length := by omega
    rw [decodeAnalogAt, rxByte_of_lt hi]
    exact ih _

/-- `DecodeAnalog` on a 21-byte string is the pseudocode's sequence of copies. -/
theorem decodeAnalog_of_length {map : Vector (Fin 16) 16} {rx : Frame} (h : rx.length = 21) (ana : Vector Byte 16) :
    decodeAnalog map rx ana = .ok (bigAnalog map rx ana) := decodeAnalogAt_of_length h _ _

/-- A run of copies writes, at a place that one copy of it names, what that copy wrote, if no later copy names it. -/
theorem foldl_set_get (map : Vector (Fin 16) 16) (v : Fin 16 → Byte) (is : List (Fin 16)) (ana : Vector Byte 16)
    (hinj : ∀ i ∈ is, ∀ j ∈ is, map.get i = map.get j → i = j) (i : Fin 16) (hi : i ∈ is) :
    (is.foldl (fun acc i => acc.set (map.get i).val (v i) (map.get i).isLt) ana).get (map.get i) = v i := by
  induction is using List.reverseRecOn with
  | nil => simp at hi
  | append_singleton is j ih =>
    simp only [List.foldl_append, List.foldl_cons, List.foldl_nil]
    rw [Vector.get_eq_getElem, Vector.getElem_set]
    by_cases hij : map.get j = map.get i
    · have := hinj j (by simp) i hi hij
      simp [this]
    · have hne : (map.get j).val ≠ (map.get i).val := fun h => hij (Fin.ext h)
      have hi' : i ∈ is := by
        rcases List.mem_append.1 hi with h | h
        · exact h
        · exact absurd (by simp at h; rw [h]) hij
      rw [if_neg hne, ← Vector.get_eq_getElem]
      exact ih (fun a ha b hb => hinj a (by simp [ha]) b (by simp [hb])) hi'

/-- A legal `ANALOG_MAP` sends different offsets to different registers. -/
theorem analogMap_injective {p : Params} (h : p.wf = true) {i j : Fin 16}
    (hij : p.analogMap.get i = p.analogMap.get j) : i = j := by
  have hn : p.analogMap.toList.Nodup := by
    simp only [Params.wf, Bool.and_eq_true, decide_eq_true_eq] at h
    exact h.1.1
  have hi : i.val < p.analogMap.toList.length := by simp
  have hj : j.val < p.analogMap.toList.length := by simp
  refine Fin.ext ((hn.getElem_inj_iff (hi := hi) (hj := hj)).1 ?_)
  simpa [Vector.get_eq_getElem] using hij

/-- Under a legal map, `ANA[ANALOG_MAP(k)]` is the byte at offset `k` (R103). -/
theorem bigAnalog_get {p : Params} (h : p.wf = true) (rx : Frame) (ana : Vector Byte 16) (i : Fin 16) :
    (bigAnalog p.analogMap rx ana).get (p.analogMap.get i) = rx.getD (5 + i.val) 0#8 :=
  foldl_set_get p.analogMap (fun i => rx.getD (5 + i.val) 0#8) _ ana
    (fun _ _ _ _ => analogMap_injective h) i (List.mem_finRange i)

/-- What a poll makes of a string of the length asked for, in every class (R94): never a fault, because the length is
21 wherever `AV` is set (R41). -/
theorem pollSnap_of_length {map : Vector (Fin 16) 16} {ame : Bool} {rx : Frame}
    (h : rx.length = (pollFrame ame).len) (cls : RespClass) (old : Snap) :
    pollSnap map ame cls rx old = .ok
      { dv := flagDV cls
        av := flagAV cls ame
        btn := if flagDV cls then buttonsOf (rx.getD 3 0#8) (rx.getD 4 0#8) else old.btn
        ana := if flagAV cls ame then bigAnalog map rx old.ana else old.ana } := by
  cases ame
  · have h5 : 5 ≤ rx.length := by rw [h]; decide
    cases cls <;> simp [pollSnap, flagDV, flagAV, decodeDigital_of_length h5]
  · have h21 : rx.length = 21 := h
    have h5 : 5 ≤ rx.length := by omega
    cases cls <;> simp [pollSnap, flagDV, flagAV, decodeDigital_of_length h5, decodeAnalog_of_length h21]

theorem getLsbD_packBits (f : Nat → Bool) (n i : Nat) : (packBits f n).getLsbD i = (decide (i < n) && f i) := by
  induction n with
  | zero => simp [packBits]
  | succ n ih =>
    rw [packBits, BitVec.getLsbD_cons, ih]
    by_cases h : i = n
    · subst h; simp
    · by_cases h' : i < n
      · simp [h, h', Nat.lt_succ_of_lt h']
      · have : ¬ i < n + 1 := by omega
        simp [h, h', this]

end Sys2Proof.Machine
end

