-- ==== Sys2Proof/Laws/Ops.lean ====
section
/-! SUPPORT. For each shared operation, once, everything it can do. -/

namespace Sys2Proof.Machine

/-! ### Encoding -/

@[simp] theorem rom_length (p : Params) (fid : Fid) : (rom p fid).length = fid.len := by
  cases fid <;> simp [rom, Fid.len, lenDigital, lenAnalog]

theorem bytes_eq_ok {n : Nat} {r : Answer} {rx : Frame} : r.bytes n = .ok rx ↔ r = .ok rx ∧ rx.length = n := by
  cases r with
  | fail => simp [Answer.bytes]
  | ok rx' =>
    simp only [Answer.bytes, Answer.ok.injEq]
    constructor
    · intro h
      split at h
      · cases h; exact ⟨rfl, ‹_›⟩
      · cases h
    · rintro ⟨rfl, h⟩; simp [h]

theorem h19Op_h19Word (op : BitVec 3) (a b : Byte) : h19Op (h19Word op a b) = op := by
  ext i hi; simp only [h19Op, h19Word, BitVec.getElem_extractLsb', BitVec.getLsbD_append]
  simp [show ¬ 16 + i < 8 by omega, show ¬ 16 + i - 8 < 8 by omega, show 16 + i - 8 - 8 = i by omega,
    BitVec.getLsbD_eq_getElem hi]

theorem h19A_h19Word (op : BitVec 3) (a b : Byte) : h19A (h19Word op a b) = a := by
  ext i hi; simp only [h19A, h19Word, BitVec.getElem_extractLsb', BitVec.getLsbD_append]
  simp [show ¬ 8 + i < 8 by omega, show 8 + i - 8 = i by omega, hi]

theorem h19B_h19Word (op : BitVec 3) (a b : Byte) : h19B (h19Word op a b) = b := by
  ext i hi; simp only [h19B, h19Word, BitVec.getElem_extractLsb', BitVec.getLsbD_append]
  simp [hi]

/-- The word of an operation decodes to it. -/
theorem decodeH19_opWord (op : Op) (a b : Byte) : decodeH19 (h19Word op.code a b) = op.instr a b := by
  rw [decodeH19, h19Op_h19Word, h19A_h19Word, h19B_h19Word]
  cases op <;> rfl

/-! ### Sending and accepting -/

/-- A frame goes out exactly where no exchange is unanswered and the operation in progress selects it. -/
theorem sendFrame_eq_next {fid : Fid} {s t : State} :
    sendFrame fid s = .next t ↔
      s.fsm ≠ .xfer ∧ s.selected = some fid ∧
        t = { s with fsm := .xfer, trace := s.trace ++ [.xferReq (rom s.params fid) fid.len] } := by
  unfold sendFrame
  split
  · simp_all
  · split
    · simp_all [State.emit, eq_comm]
    · simp_all

theorem sendFrame_ne_fault (fid : Fid) (s : State) (f : Fault) : sendFrame fid s ≠ .fault f := by
  unfold sendFrame; split
  · simp
  · split <;> simp

theorem whenIdle_of_idle {s : State} (h : s.fsm = .idle) (k : Host.Outcome State Fault Refusal) : whenIdle s k = k := by
  simp [whenIdle, h]

theorem whenIdle_of_busy {s : State} (h : s.fsm ≠ .idle) (k : Host.Outcome State Fault Refusal) :
    whenIdle s k = .refused .commandWhileBusy := by
  simp [whenIdle, h]

theorem verdict_iff {v : Validator} {fid : Fid} {rx : Frame} : verdict v fid rx = true ↔ (fid, rx) ∉ v.rejects := by
  simp [verdict]

/-! ### The outstanding exchange -/

theorem selected_poll {s : State} (h : s.curOp = .poll) : s.selected = some (pollFrame s.ame) := by
  simp [State.selected, h]

theorem selected_connect {s : State} (h : s.curOp = .connect) : s.selected = some (pollFrame s.ame) := by
  simp [State.selected, h]

theorem xferLen_poll {s : State} (h : s.curOp = .poll) : s.xferLen = (pollFrame s.ame).len := by
  simp [State.xferLen, selected_poll h]

theorem xferLen_connect {s : State} (h : s.curOp = .connect) : s.xferLen = (pollFrame s.ame).len := by
  simp [State.xferLen, selected_connect h]

/-! ### Completions -/

theorem State.signalIf_eq (s : State) (q : Bool) (c : Condition) :
    s.signalIf q c =
      { s with conditions := s.conditions ++ if q then [c.converted s.curOp s.stepIx] else [] } := by
  cases q <;> simp [State.signalIf, State.signal]

/-- Everything a handshake's answer can do (R131): abort, success, the next delay; or the stop on a step outside the
table. -/
theorem completeHandshake_cases (r : Answer) (s : State) :
    (completeHandshake r s = .refused .illegalSequencing ∧ (handshakeSeq s.curOp)[s.stepIx.toNat]? = none) ∨
    ∃ fid, (handshakeSeq s.curOp)[s.stepIx.toNat]? = some fid ∧
      (((∀ rx, r.bytes fid.len = .ok rx → verdict s.params.validator fid rx = false) ∧
          ∃ c, (c = .transportFault ∨ c = .configurationSequenceFailure s.stepIx) ∧
            completeHandshake r s = .next (endHandshake false (s.signal c))) ∨
       (∃ rx, r.bytes fid.len = .ok rx ∧ verdict s.params.validator fid rx = true ∧
          ((s.stepIx.toNat + 1 = (handshakeSeq s.curOp).length ∧
              completeHandshake r s = .next (endHandshake true { s with ame := handshakeTarget s.curOp })) ∨
           (s.stepIx.toNat + 1 ≠ (handshakeSeq s.curOp).length ∧
              completeHandshake r s = .next ({ s with fsm := .delay }.emit (.delay s.params.stepDelay)))))) := by
  unfold completeHandshake
  cases hf : (handshakeSeq s.curOp)[s.stepIx.toNat]? with
  | none => simp
  | some fid =>
    refine .inr ⟨fid, rfl, ?_⟩
    cases hb : r.bytes fid.len with
    | error e => exact .inl ⟨by simp, _, .inl rfl, by simp [hb]⟩
    | ok rx =>
      cases hv : verdict s.params.validator fid rx with
      | false => exact .inl ⟨by rintro _ ⟨⟩; exact hv, _, .inr rfl, by simp [hb, hv]⟩
      | true =>
        refine .inr ⟨rx, rfl, hv, ?_⟩
        by_cases hl : s.stepIx.toNat + 1 = (handshakeSeq s.curOp).length
        · exact .inl ⟨hl, by simp [hb, hv, hl]⟩
        · exact .inr ⟨hl, by simp [hb, hv, hl]⟩

theorem completeHandshake_ne_fault (r : Answer) (s : State) (f : Fault) : completeHandshake r s ≠ .fault f := by
  rcases completeHandshake_cases r s with ⟨h, -⟩ | ⟨_, -, ⟨-, _, -, h⟩ | ⟨_, -, -, ⟨-, h⟩ | ⟨-, h⟩⟩⟩ <;> simp [h]

/-- The probe's answer always completes `CONNECT` (R130): only `CONN`, `fsm` and the records change. -/
theorem completeProbe_next (cls : RespClass) (rx : Option Frame) (s : State) :
    ∃ ok cs, completeProbe cls rx s =
      .next { s with conn := ok, fsm := .idle, trace := s.trace ++ [.ret (.bool ok)], conditions := s.conditions ++ cs } := by
  cases rx with
  | none => exact ⟨false, _, rfl⟩
  | some rx =>
    refine ⟨cls == .digital || cls == .analog, if cls = .unexpected then [.connectionCheckFailure] else [], ?_⟩
    cases cls <;> simp [completeProbe, State.finish, State.signal, State.signalIf]

/-- A poll's answer, of the length asked for or none at all, always completes `POLL` (R129): only `SNAP`, `fsm` and the
records change. -/
theorem completePoll_next (cls : RespClass) (rx : Option Frame) (s : State)
    (h : ∀ f, rx = some f → f.length = (pollFrame s.ame).len) :
    ∃ snap cs, completePoll cls rx s =
      .next { s with
        snap := snap, fsm := .idle, trace := s.trace ++ [.ret (.snap snap)], conditions := s.conditions ++ cs } := by
  cases rx with
  | none => exact ⟨_, _, rfl⟩
  | some rx =>
    simp only [completePoll, pollSnap_of_length (h rx rfl), State.signalIf_eq]
    exact ⟨_, _, rfl⟩

end Sys2Proof.Machine
end

