-- ==== Sys2Proof/Laws/Step.lean ====
section
/-! SUPPORT. What one step can do, said once: an inversion lemma for the step and for each input event. -/

namespace Sys2Proof.Machine

/-! ### Equations -/

@[simp] theorem step_offer (s : State) (e : Input) : step (s.offer e) = onInput e s := rfl

theorem step_of_inbox_nil {s : State} (h : s.inbox = []) : step s = .next s := by
  simp [step, consume, h]

theorem step_of_inbox_cons {s : State} {e : Input} {rest : List Input} (h : s.inbox = e :: rest) :
    step s = onInput e { s with inbox := rest } := by
  simp [step, consume, h]

@[simp] theorem exec_frame (fid : Fid) (s : State) : exec fid.instr s = sendFrame fid s := by
  cases fid <;> rfl

@[simp] theorem exec_resp (cls : RespClass) (rx : Frame) (s : State) : exec (cls.instr rx) s = receive cls rx s := by
  cases cls <;> rfl

theorem h19Op_cases (w : HostWord) :
    (∃ op : Op, h19Op w = op.code ∧ decodeH19 w = op.instr (h19A w) (h19B w)) ∨
    (6 ≤ (h19Op w).toNat ∧ ∃ odd, decodeH19 w = .reserved odd (h19A w) (h19B w)) := by
  have key : ∀ v : BitVec 3, (∃ op : Op, v = op.code) ∨ v = 6#3 ∨ v = 7#3 := by
    intro v
    have : v = 0#3 ∨ v = 1#3 ∨ v = 2#3 ∨ v = 3#3 ∨ v = 4#3 ∨ v = 5#3 ∨ v = 6#3 ∨ v = 7#3 := by
      revert v; decide
    rcases this with h | h | h | h | h | h | h | h
    · exact .inl ⟨.connect, h⟩
    · exact .inl ⟨.disconnect, h⟩
    · exact .inl ⟨.isConnected, h⟩
    · exact .inl ⟨.poll, h⟩
    · exact .inl ⟨.enableAnalog, h⟩
    · exact .inl ⟨.disableAnalog, h⟩
    · exact .inr (.inl h)
    · exact .inr (.inr h)
  rcases key (h19Op w) with ⟨op, h⟩ | h | h
  · refine .inl ⟨op, h, ?_⟩
    simp only [decodeH19, h]
    cases op <;> rfl
  · exact .inr ⟨by rw [h]; decide, false, by simp only [decodeH19, h]; rfl⟩
  · exact .inr ⟨by rw [h]; decide, true, by simp only [decodeH19, h]; rfl⟩

theorem op_code_lt (op : Op) : op.code.toNat < 6 := by cases op <;> decide

/-! ### Inversion -/

/-- A step waits, or consumes the input event at the head of the inbox. -/
theorem step_cases {s t : State} (h : step s = .next t) :
    (s.inbox = [] ∧ t = s) ∨ ∃ e rest, s.inbox = e :: rest ∧ onInput e { s with inbox := rest } = .next t := by
  cases hi : s.inbox with
  | nil => rw [step_of_inbox_nil hi] at h; cases h; exact .inl ⟨rfl, rfl⟩
  | cons e rest => rw [step_of_inbox_cons hi] at h; exact .inr ⟨e, rest, rfl, h⟩

/-- What a command that is run does, by operation. -/
theorem onCmd_next {w : HostWord} {s t : State} (h : onCmd w s = .next t) :
    s.fsm = .idle ∧ ∃ op : Op, h19Op w = op.code ∧
      ((op = .disconnect ∧ t = { s.accept op (h19A w) (h19B w) with conn := false }.finish .none) ∨
       (op = .isConnected ∧ t = (s.accept op (h19A w) (h19B w)).finish (.bool s.conn)) ∨
       (op = .connect ∧ s.params.connectProbe = false ∧
        t = ({ s.accept op (h19A w) (h19B w) with conn := false }.signal .connectionCheckFailure).finish
          (.bool false)) ∨
       ((op = .poll ∨ op = .connect ∧ s.params.connectProbe = true) ∧
        t = { s.accept op (h19A w) (h19B w) with fsm := .xfer }.emit
          (.xferReq (rom s.params (pollFrame s.ame)) (pollFrame s.ame).len)) ∨
       ((op = .enableAnalog ∨ op = .disableAnalog) ∧
        t = { s.accept op (h19A w) (h19B w) with stepIx := 0#3, fsm := .xfer }.emit
          (.xferReq (rom s.params .enterCfg) 5))) := by
  have hf : s.fsm = .idle := by
    by_contra hb
    rcases h19Op_cases w with ⟨op, -, hd⟩ | ⟨-, odd, hd⟩
    · rw [onCmd, hd] at h
      cases op <;>
        simp [Op.instr, exec, execConnect, execDisconnect, execIsConnected, execPoll, execEnableAnalog,
          execDisableAnalog, startHandshake, whenIdle_of_busy hb] at h
    · rw [onCmd, hd] at h; simp [exec, execReserved] at h
  refine ⟨hf, ?_⟩
  rcases h19Op_cases w with ⟨op, ho, hd⟩ | ⟨-, odd, hd⟩
  · refine ⟨op, ho, ?_⟩
    rw [onCmd, hd] at h
    cases op with
    | connect =>
      simp only [Op.instr, exec, execConnect, whenIdle_of_idle hf] at h
      have ha : (s.accept .connect (h19A w) (h19B w)).params.connectProbe = s.params.connectProbe := rfl
      cases hp : s.params.connectProbe with
      | true =>
        rw [if_pos (ha.trans hp)] at h
        obtain ⟨-, -, ht⟩ := sendFrame_eq_next.1 h
        exact .inr (.inr (.inr (.inl ⟨.inr ⟨rfl, rfl⟩, ht⟩)))
      | false =>
        rw [if_neg (by simp [hp])] at h
        cases h; exact .inr (.inr (.inl ⟨rfl, rfl, rfl⟩))
    | disconnect =>
      simp only [Op.instr, exec, execDisconnect, whenIdle_of_idle hf] at h
      cases h; exact .inl ⟨rfl, rfl⟩
    | isConnected =>
      simp only [Op.instr, exec, execIsConnected, whenIdle_of_idle hf] at h
      cases h; exact .inr (.inl ⟨rfl, rfl⟩)
    | poll =>
      simp only [Op.instr, exec, execPoll, whenIdle_of_idle hf] at h
      obtain ⟨-, -, ht⟩ := sendFrame_eq_next.1 h
      exact .inr (.inr (.inr (.inl ⟨.inl rfl, ht⟩)))
    | enableAnalog =>
      simp only [Op.instr, exec, execEnableAnalog, startHandshake, whenIdle_of_idle hf] at h
      obtain ⟨-, -, ht⟩ := sendFrame_eq_next.1 h
      exact .inr (.inr (.inr (.inr ⟨.inl rfl, ht⟩)))
    | disableAnalog =>
      simp only [Op.instr, exec, execDisableAnalog, startHandshake, whenIdle_of_idle hf] at h
      obtain ⟨-, -, ht⟩ := sendFrame_eq_next.1 h
      exact .inr (.inr (.inr (.inr ⟨.inr rfl, ht⟩)))
  · rw [onCmd, hd] at h; simp [exec, execReserved] at h

/-- What decodes is a response instruction on the very bytes received. -/
theorem decodeRx_eq_ok {n : Nat} {r : Answer} {i : Instr} (h : decodeRx n r = .ok i) :
    ∃ rx d, r = .ok rx ∧ rx.length = n ∧ rx[1]? = some d ∧ i = (classify d).instr rx := by
  unfold decodeRx at h
  split at h
  · rename_i rx hb
    obtain ⟨rfl, hn⟩ := bytes_eq_ok.1 hb
    unfold classifyFrame at h
    split at h
    · rename_i d hd
      cases h; exact ⟨rx, d, rfl, hn, hd, rfl⟩
    · cases h
  · cases h

/-- What a response that is accepted does (R129 to R131). -/
theorem onXferResp_next {r : Answer} {s t : State} (h : onXferResp r s = .next t) :
    s.fsm = .xfer ∧
      ((s.curOp = .poll ∧ ∃ snap cs, t =
          { s with
            snap := snap, fsm := .idle, trace := s.trace ++ [.xferResp r, .ret (.snap snap)]
            conditions := s.conditions ++ cs }) ∨
       (s.curOp = .connect ∧ ∃ ok cs, t =
          { s with
            conn := ok, fsm := .idle, trace := s.trace ++ [.xferResp r, .ret (.bool ok)]
            conditions := s.conditions ++ cs }) ∨
       ((s.curOp = .enableAnalog ∨ s.curOp = .disableAnalog) ∧
          completeHandshake r (s.emit (.xferResp r)) = .next t)) := by
  have hx : s.fsm = .xfer := by
    by_contra hb; simp [onXferResp, hb] at h
  refine ⟨hx, ?_⟩
  have key : onPollResp r s = .next t → ∃ cls rx, complete cls r rx (s.emit (.xferResp r)) = .next t ∧
      ∀ f, rx = some f → f.length = s.xferLen := by
    intro h
    unfold onPollResp at h
    split at h
    · rename_i i hi
      obtain ⟨rx, d, rfl, hn, -, rfl⟩ := decodeRx_eq_ok hi
      rw [exec_resp, receive, if_pos hx, if_pos hn] at h
      exact ⟨_, _, h, by rintro _ ⟨⟩; exact hn⟩
    · exact ⟨_, none, h, by simp⟩
  rw [onXferResp, if_pos hx] at h
  cases ho : s.curOp with
  | poll =>
    rw [ho] at h
    obtain ⟨cls, rx, hc, hl⟩ := key h
    obtain ⟨snap, cs, hp⟩ := completePoll_next cls rx (s.emit (.xferResp r))
      (by intro f hf; rw [hl f hf, xferLen_poll ho, State.emit_ame])
    simp only [complete, State.emit_curOp, ho, hp] at hc
    cases hc
    exact .inl ⟨rfl, snap, cs, by simp⟩
  | connect =>
    rw [ho] at h
    obtain ⟨cls, rx, hc, -⟩ := key h
    obtain ⟨ok, cs, hp⟩ := completeProbe_next cls rx (s.emit (.xferResp r))
    simp only [complete, State.emit_curOp, ho, hp] at hc
    cases hc
    exact .inr (.inl ⟨rfl, ok, cs, by simp⟩)
  | enableAnalog => rw [ho] at h; exact .inr (.inr ⟨.inl rfl, h⟩)
  | disableAnalog => rw [ho] at h; exact .inr (.inr ⟨.inr rfl, h⟩)
  | disconnect => simp [ho] at h
  | isConnected => simp [ho] at h

/-- What the end of a delay does, where it is accepted (R132). -/
theorem onDelayDone_next {s t : State} (h : onDelayDone s = .next t) :
    s.fsm = .delay ∧ ∃ fid, (handshakeSeq s.curOp)[(s.stepIx + 1#3).toNat]? = some fid ∧
      t = { s with
        stepIx := s.stepIx + 1#3, fsm := .xfer, trace := s.trace ++ [.xferReq (rom s.params fid) fid.len] } := by
  unfold onDelayDone at h
  split at h
  · rename_i hd
    refine ⟨hd, ?_⟩
    simp only at h
    split at h
    · rename_i fid hf
      rw [exec_frame] at h
      exact ⟨fid, hf, (sendFrame_eq_next.1 h).2.2⟩
    · cases h
  · cases h

/-- What a reset does, where it is accepted (R156). -/
theorem onReset_next {s t : State} (h : onReset s = .next t) : s.fsm = .idle ∧ t = s.construct := by
  unfold onReset at h
  split at h
  · cases h; exact ⟨‹_›, rfl⟩
  · cases h

/-- How an input event extends the trace: not at all (a reset), by a result, by one request, or by the response awaited
and one event after it. -/
theorem onInput_trace {e : Input} {s t : State} (h : onInput e s = .next t) :
    (t.trace = s.trace ∧ t.fsm = s.fsm) ∨
    (s.fsm = .idle ∧ t.fsm = .idle ∧ ∃ v, t.trace = s.trace ++ [.ret v]) ∨
    (s.fsm ≠ .xfer ∧ t.fsm = .xfer ∧ ∃ fid, t.trace = s.trace ++ [.xferReq (rom s.params fid) fid.len]) ∨
    (s.fsm = .xfer ∧ t.fsm ≠ .xfer ∧
      ∃ r e, (e.isReq = false ∧ e.isResp = false) ∧ t.trace = s.trace ++ [.xferResp r, e]) := by
  cases e with
  | cmd w =>
    obtain ⟨hf, op, -, h⟩ := onCmd_next h
    rcases h with ⟨-, rfl⟩ | ⟨-, rfl⟩ | ⟨-, -, rfl⟩ | ⟨ho, rfl⟩ | ⟨ho, rfl⟩
    · exact .inr (.inl ⟨hf, rfl, _, rfl⟩)
    · exact .inr (.inl ⟨hf, rfl, _, rfl⟩)
    · exact .inr (.inl ⟨hf, rfl, _, rfl⟩)
    · exact .inr (.inr (.inl ⟨by simp [hf], rfl, _, rfl⟩))
    · exact .inr (.inr (.inl ⟨by simp [hf], rfl, .enterCfg, rfl⟩))
  | reset => obtain ⟨hf, rfl⟩ := onReset_next h; exact .inl ⟨rfl, hf.symm⟩
  | delayDone =>
    obtain ⟨hf, fid, hs, rfl⟩ := onDelayDone_next h
    exact .inr (.inr (.inl ⟨by simp [hf], rfl, fid, rfl⟩))
  | xferResp r =>
    obtain ⟨hx, hcs⟩ := onXferResp_next h
    refine .inr (.inr (.inr ⟨hx, ?_⟩))
    rcases hcs with ⟨ho, snap, cs, rfl⟩ | ⟨ho, ok, cs, rfl⟩ | ⟨ho, hc⟩
    · exact ⟨by simp, _, _, ⟨by rfl, by rfl⟩, rfl⟩
    · exact ⟨by simp, _, _, ⟨by rfl, by rfl⟩, rfl⟩
    · rcases completeHandshake_cases r (s.emit (.xferResp r)) with
        ⟨h', -⟩ | ⟨_, -, ⟨-, c, -, h'⟩ | ⟨_, -, -, ⟨-, h'⟩ | ⟨-, h'⟩⟩⟩
      · rw [h'] at hc; cases hc
      · rw [h'] at hc; cases hc
        exact ⟨by simp [endHandshake], r, .ret (.bool false), ⟨rfl, rfl⟩, by simp [endHandshake]⟩
      · rw [h'] at hc; cases hc
        exact ⟨by simp [endHandshake], r, .ret (.bool true), ⟨rfl, rfl⟩, by simp [endHandshake]⟩
      · rw [h'] at hc; cases hc; exact ⟨by simp, r, .delay s.params.stepDelay, ⟨by rfl, by rfl⟩, by simp⟩

/-- No input event changes the parameters (R21). -/
theorem onInput_params {e : Input} {s t : State} (h : onInput e s = .next t) : t.params = s.params := by
  cases e with
  | cmd w =>
    obtain ⟨hf, op, -, h⟩ := onCmd_next h
    rcases h with ⟨-, rfl⟩ | ⟨-, rfl⟩ | ⟨-, -, rfl⟩ | ⟨ho, rfl⟩ | ⟨ho, rfl⟩ <;> rfl
  | reset => obtain ⟨hf, rfl⟩ := onReset_next h; rfl
  | delayDone => obtain ⟨hf, fid, hs, rfl⟩ := onDelayDone_next h; rfl
  | xferResp r =>
    obtain ⟨hx, hcs⟩ := onXferResp_next h
    rcases hcs with ⟨ho, snap, cs, rfl⟩ | ⟨ho, ok, cs, rfl⟩ | ⟨ho, hc⟩
    · rfl
    · rfl
    · rcases completeHandshake_cases r (s.emit (.xferResp r)) with
        ⟨h', -⟩ | ⟨_, -, ⟨-, c, -, h'⟩ | ⟨_, -, -, ⟨-, h'⟩ | ⟨-, h'⟩⟩⟩ <;> rw [h'] at hc <;> cases hc <;> rfl

end Sys2Proof.Machine
end

