-- ==== Sys2Proof/Laws/Environment.lean ====
section
/-! SUPPORT. The answering environment: where the drive stops, and what one answer to a handshake step does. -/

namespace Sys2Proof.Machine

/-- In `IDLE` the drive takes no further step. -/
theorem drive_of_idle (orc : Nat → Answer) (k : Nat) {s : State} (h : s.fsm = .idle) :
    ∀ fuel, drive orc fuel k s = .next s
  | 0 => rfl
  | fuel + 1 => by simp [drive, h]

theorem bigValidated_of_bytes {v : Validator} {fid : Fid} {r : Answer} {rx : Frame}
    (h : r.bytes fid.len = .ok rx) : bigValidated v fid r = verdict v fid rx := by
  simp [bigValidated, h, verdict]

theorem bigHandshake_cons (orc : Nat → Answer) (target : Bool) (i : Nat) (fid : Fid) (fids : List Fid) (s : State) :
    bigHandshake orc target i (fid :: fids) s =
      let s := if 0 < i then s.emit (.delay s.params.stepDelay) else s
      let s := bigXfer fid (orc i) s
      if bigValidated s.params.validator fid (orc i) then bigHandshake orc target (i + 1) fids s
      else { s.signal (.configurationSequenceFailure (BitVec.ofNat 3 i)) with stepIx := 0#3 }.finish (.bool false) := rfl

/-- Everything the answer to a step of a handshake does (R131). -/
theorem onInput_handshake_answer {s : State} {r : Answer} {fid : Fid} (hx : s.fsm = .xfer)
    (ho : s.curOp = .enableAnalog ∨ s.curOp = .disableAnalog)
    (hs : (handshakeSeq s.curOp)[s.stepIx.toNat]? = some fid) :
    onInput (.xferResp r) s =
      if bigValidated s.params.validator fid r then
        if s.stepIx.toNat + 1 = (handshakeSeq s.curOp).length then
          .next (endHandshake true { s.emit (.xferResp r) with ame := handshakeTarget s.curOp })
        else .next ({ s.emit (.xferResp r) with fsm := .delay }.emit (.delay s.params.stepDelay))
      else .next (endHandshake false ((s.emit (.xferResp r)).signal (.configurationSequenceFailure s.stepIx))) := by
  have h1 : onInput (.xferResp r) s = completeHandshake r (s.emit (.xferResp r)) := by
    rcases ho with ho | ho <;> simp [onInput, onXferResp, hx, ho]
  rw [h1, completeHandshake]
  simp only [State.emit_curOp, State.emit_stepIx, hs]
  cases hb : r.bytes fid.len with
  | error e =>
    simp only [bigValidated, hb, Bool.false_eq_true, if_false]
    rcases ho with ho | ho <;> simp [State.signal, ho]
  | ok rx =>
    rw [bigValidated_of_bytes hb]
    cases hv : verdict s.params.validator fid rx
    · simp [hv]
    · simp [hv]; rfl

end Sys2Proof.Machine
end

