-- ==== Sys2Proof/Laws/PerInstr.lean ====
section
/-! SUPPORT. A statement for all instructions, one lemma per constructor: what an instruction's encoding is made of and
how long it is (R56, R57, R61, R65). -/

namespace Sys2Proof.Laws.EncodedLength

/-- The encoding of a well-formed instruction is a host word, a transmitted frame of 5, 9 or 21 bytes, or a received
poll frame of 5 or 21 bytes. -/
def Statement (i : Instr) : Prop :=
  ∀ p : Params, i.wf = true →
    match encode p i with
    | .h19 _ => True
    | .tx f => f.length = 5 ∨ f.length = 9 ∨ f.length = 21
    | .rx f => f.length = 5 ∨ f.length = 21

theorem rx_length {cls : RespClass} {rx : Frame} (h : wfRx cls rx = true) : rx.length = 5 ∨ rx.length = 21 := by
  simp only [wfRx, Bool.and_eq_true, Bool.or_eq_true, beq_iff_eq] at h
  exact h.1

theorem connect (a b : Byte) : Statement (.connect a b) := fun _ _ => trivial
theorem disconnect (a b : Byte) : Statement (.disconnect a b) := fun _ _ => trivial
theorem isConnected (a b : Byte) : Statement (.isConnected a b) := fun _ _ => trivial
theorem poll (a b : Byte) : Statement (.poll a b) := fun _ _ => trivial
theorem enableAnalog (a b : Byte) : Statement (.enableAnalog a b) := fun _ _ => trivial
theorem disableAnalog (a b : Byte) : Statement (.disableAnalog a b) := fun _ _ => trivial
theorem poll0 : Statement .poll0 := fun _ _ => trivial
theorem reserved (odd : Bool) (a b : Byte) : Statement (.reserved odd a b) := fun _ _ => trivial
theorem fPollD : Statement .fPollD := fun _ _ => .inl rfl
theorem fPollA : Statement .fPollA := fun p _ => .inr (.inr (Machine.rom_length p .pollA))
theorem fEnterCfg : Statement .fEnterCfg := fun _ _ => .inl rfl
theorem fSetAnalog : Statement .fSetAnalog := fun _ _ => .inr (.inl rfl)
theorem fEnableMotor : Statement .fEnableMotor := fun _ _ => .inr (.inl rfl)
theorem fCfgPressure : Statement .fCfgPressure := fun _ _ => .inr (.inl rfl)
theorem fExitCfg : Statement .fExitCfg := fun _ _ => .inr (.inl rfl)
theorem fSetDigital : Statement .fSetDigital := fun p _ => .inr (.inl (Machine.rom_length p .setDigital))
theorem respDigital (rx : Frame) : Statement (.respDigital rx) := fun _ h => rx_length h
theorem respAnalog (rx : Frame) : Statement (.respAnalog rx) := fun _ h => rx_length h
theorem respUnexpected (rx : Frame) : Statement (.respUnexpected rx) := fun _ h => rx_length h

end Sys2Proof.Laws.EncodedLength
end

