-- ==== Sys2Proof/Tests/Slice0.lean ====
section
/-! SUPPORT. The model's own tests: ill-formed terms that the checks refuse, words and frames written out from the spec's
encodings, single steps with the spec's own expected values (95_test_vectors.md), and a witness for the hypotheses of
every statement. -/

namespace Sys2Proof.Tests

open Sys2Proof.Machine

/-! ### Helpers -/

/-- Parameters with nothing opaque in them: the defaults, a validator that rejects the given pairs, a delay of 7. -/
def params (rejects : List (Fid × Frame)) : Params :=
  { Params.default with validator := ⟨rejects⟩, stepDelay := 7, transportMode := 3, transportFreq := 250 }

/-- Idle, as after reset, with those parameters. -/
def idle (rejects : List (Fid × Frame) := []) : State := { State.reset with params := params rejects }

/-- An operation with an unanswered request, at a handshake step. -/
def inXfer (op : Op) (k : BitVec 3) (ame : Bool) (rejects : List (Fid × Frame) := []) : State :=
  { idle rejects with fsm := .xfer, curOp := op, stepIx := k, ame := ame }

/-- A handshake in a delay after a step. -/
def inDelay (op : Op) (k : BitVec 3) : State := { idle with fsm := .delay, curOp := op, stepIx := k }

/-- A state with a snapshot of given flags, the button `cross` pressed, `left_x = 0x80`. -/
def withSnap (s : State) (dv av : Bool) : State :=
  { s with
    snap := { dv := dv, av := av, btn := (Vector.replicate 16 false).set 14 true, ana := (Vector.replicate 16 0#8).set 2 0x80#8 } }

/-- What a next state shows. -/
def seen {α : Type} (o : Host.Outcome State Fault Refusal) (f : State → α) : Option α :=
  match o with
  | .next s => some (f s)
  | .fault _ => none
  | .refused _ => none

/-- Why a step was refused. -/
def refusal (o : Host.Outcome State Fault Refusal) : Option Refusal :=
  match o with
  | .next _ => none
  | .fault _ => none
  | .refused r => some r

/-- What the spec's vectors list of a state. -/
structure View where
  dv : Bool
  av : Bool
  btnw : BitVec 16
  conn : Bool
  ame : Bool
  fsm : Fsm
  step : BitVec 3
deriving DecidableEq, Repr

/-- The flags, `BTNW`, `CONN`, `AME`, `fsm`, `step`. -/
def view (s : State) : View := ⟨s.snap.dv, s.snap.av, buttonWord s.snap.btn, s.conn, s.ame, s.fsm, s.stepIx⟩

/-- A response of `n` bytes as the spec's programs write it for a handshake. -/
def okBytes (n : Nat) : Frame := [0xFF#8, 0xF3#8, 0x5A#8] ++ List.replicate (n - 3) 0x00#8

/-- The answer of V22. -/
def rxV22 : Frame :=
  [0xFF#8, 0x73#8, 0x5A#8, 0xFF#8, 0xFF#8, 0x10#8, 0x20#8, 0x80#8, 0x7F#8, 0x00#8, 0x00#8] ++
  [0x00#8, 0x00#8, 0x00#8, 0x00#8, 0xFF#8, 0x00#8, 0x00#8, 0x00#8, 0x40#8, 0x00#8]

/-- The answer of V24. -/
def rxV24 : Frame := [0xFF#8, 0x41#8, 0x5A#8, 0xF7#8, 0xFF#8] ++ List.replicate 16 0xEE#8

/-- The answer of V39. -/
def rxV39 : Frame :=
  [0xFF#8, 0x73#8, 0x5A#8, 0xFF#8, 0xFF#8, 0xA0#8, 0xA1#8, 0xA2#8, 0xA3#8, 0xA4#8, 0xA5#8] ++
  [0xA6#8, 0xA7#8, 0xA8#8, 0xA9#8, 0xAA#8, 0xAB#8, 0xAC#8, 0xAD#8, 0xAE#8, 0xAF#8]

/-! ### Well-formedness -/

theorem test_wf_refuses_length : (Instr.respDigital [0xFF#8, 0x41#8, 0x5A#8, 0xFF#8]).wf = false := by decide
theorem test_wf_refuses_class : (Instr.respDigital [0xFF#8, 0x73#8, 0x5A#8, 0xFF#8, 0xFF#8]).wf = false := by decide
theorem test_wf_refuses_analog_class : (Instr.respAnalog [0xFF#8, 0x41#8, 0x5A#8, 0xFF#8, 0xFF#8]).wf = false := by decide
theorem test_wf_refuses_unexpected_class :
    (Instr.respUnexpected [0xFF#8, 0x41#8, 0x5A#8, 0xFF#8, 0xFF#8]).wf = false := by decide
theorem test_wf_accepts : (Instr.respUnexpected [0xFF#8, 0x79#8, 0x5A#8, 0xFF#8, 0xFF#8]).wf = true := by decide
theorem test_params_wf_refuses_repeat : ({ params [] with analogMap := Vector.replicate 16 2 } : Params).wf = false := by
  decide
theorem test_params_wf_refuses_left_x :
    ({ params [] with analogMap := #v[2, 1, 0, 3, 4, 5, 6, 7, 8, 9, 10, 11, 12, 13, 14, 15] } : Params).wf = false := by
  decide
theorem test_params_wf_refuses_left2_pressure :
    ({ params [] with analogMap := #v[0, 1, 2, 3, 4, 5, 6, 7, 8, 9, 10, 11, 12, 13, 15, 14] } : Params).wf = false := by
  decide
theorem test_params_wf_accepts_other_map :
    ({ params [] with analogMap := #v[1, 0, 2, 3, 4, 5, 6, 7, 8, 9, 10, 11, 12, 13, 14, 15] } : Params).wf = true := by
  decide
theorem test_framesDistinct_refuses :
    ({ params [] with cmdSetDigital := #v[0x01#8, 0x44#8, 0x00#8, 0x01#8, 0x03#8, 0x00#8, 0x00#8, 0x00#8, 0x00#8] } :
      Params).framesDistinct = false := by decide

/-! ### Decoding: words and frames from 30_encoding.md, V1 to V20 -/

theorem test_decode_connect : decodeH19 0b000_11111111_11111111#19 = .connect 0xFF#8 0xFF#8 := by decide
theorem test_decode_disconnect : decodeH19 0b001_00000000_00000000#19 = .disconnect 0x00#8 0x00#8 := by decide
theorem test_decode_isConnected : decodeH19 0b010_00000000_00000000#19 = .isConnected 0x00#8 0x00#8 := by decide
theorem test_decode_poll : decodeH19 0b011_00010010_00110100#19 = .poll 0x12#8 0x34#8 := by decide
theorem test_decode_poll0_word :
    decodeH19 0b011_00000000_00000000#19 = .poll 0x00#8 0x00#8 ∧ Instr.poll0.expand = .poll 0x00#8 0x00#8 ∧
      encode Params.default .poll0 = .h19 0b011_00000000_00000000#19 := by decide
theorem test_decode_enableAnalog : decodeH19 0b100_10101011_11001101#19 = .enableAnalog 0xAB#8 0xCD#8 := by decide
theorem test_decode_disableAnalog : decodeH19 0b101_00000000_00000000#19 = .disableAnalog 0x00#8 0x00#8 := by decide
theorem test_decode_reserved :
    decodeH19 0b110_00000000_00000000#19 = .reserved false 0x00#8 0x00#8 ∧
      decodeH19 0b111_11111111_11111111#19 = .reserved true 0xFF#8 0xFF#8 := by decide
theorem test_decode_fPollD :
    decodeTx Params.default [0x01#8, 0x42#8, 0x00#8, 0x00#8, 0x00#8] = .ok .fPollD := by decide
theorem test_decode_fPollA :
    decodeTx Params.default
      ([0x01#8, 0x42#8, 0x00#8, 0x00#8, 0x00#8, 0x00#8, 0x00#8, 0x00#8, 0x00#8, 0x00#8, 0x00#8] ++
        [0x00#8, 0x00#8, 0x00#8, 0x00#8, 0x00#8, 0x00#8, 0x00#8, 0x00#8, 0x00#8, 0x00#8]) = .ok .fPollA := by decide
theorem test_decode_fEnterCfg :
    decodeTx Params.default [0x01#8, 0x43#8, 0x00#8, 0x01#8, 0x00#8] = .ok .fEnterCfg := by decide
theorem test_decode_fSetAnalog :
    decodeTx Params.default [0x01#8, 0x44#8, 0x00#8, 0x01#8, 0x03#8, 0x00#8, 0x00#8, 0x00#8, 0x00#8] = .ok .fSetAnalog := by
  decide
theorem test_decode_fEnableMotor :
    decodeTx Params.default [0x01#8, 0x4D#8, 0x00#8, 0x00#8, 0x01#8, 0xFF#8, 0xFF#8, 0xFF#8, 0xFF#8] =
      .ok .fEnableMotor := by decide
theorem test_decode_fCfgPressure :
    decodeTx Params.default [0x01#8, 0x4F#8, 0x00#8, 0xFF#8, 0xFF#8, 0x03#8, 0x00#8, 0x00#8, 0x00#8] =
      .ok .fCfgPressure := by decide
theorem test_decode_fExitCfg :
    decodeTx Params.default [0x01#8, 0x43#8, 0x00#8, 0x00#8, 0x5A#8, 0x5A#8, 0x5A#8, 0x5A#8, 0x5A#8] = .ok .fExitCfg := by
  decide
theorem test_decode_fSetDigital :
    decodeTx Params.default [0x01#8, 0x44#8, 0x00#8, 0x00#8, 0x03#8, 0x00#8, 0x00#8, 0x00#8, 0x00#8] =
      .ok .fSetDigital := by decide
theorem test_decode_tx_refuses :
    decodeTx Params.default [0x01#8, 0x45#8, 0x00#8, 0x01#8, 0x00#8] = .error .notAFrame := by decide
theorem test_decode_respDigital :
    decodeRx 5 (.ok [0x01#8, 0x41#8, 0x00#8, 0xFF#8, 0xFF#8]) =
      .ok (.respDigital [0x01#8, 0x41#8, 0x00#8, 0xFF#8, 0xFF#8]) := by decide
theorem test_decode_respAnalog : decodeRx 21 (.ok rxV22) = .ok (.respAnalog rxV22) := by decide
/-- V28 to V34: zero, all ones, one bit from either code, and `0x79`. -/
theorem test_decode_respUnexpected :
    [0x00#8, 0xFF#8, 0x40#8, 0x43#8, 0x72#8, 0x79#8, 0xF3#8].all (fun d => classify d == .unexpected) = true := by decide
theorem test_decode_rx_refuses :
    decodeRx 5 .fail = .error .transportFail ∧ decodeRx 21 (.ok [0x01#8, 0x41#8]) = .error (.wrongLength 2) := by decide
/-- The table's numbering: the first byte of a frame is the least significant byte of the number. -/
theorem test_decodeTableWord :
    decodeTableWord 24 0x31234 = some (.poll 0x12#8 0x34#8) ∧ decodeTableWord 40 0x0001004301 = some .fEnterCfg ∧
      decodeTableWord 72 0x5A5A5A5A5A00004301 = some .fExitCfg ∧
      decodeTableWord 40 0x0000007300 = some (.respAnalog [0x00#8, 0x73#8, 0x00#8, 0x00#8, 0x00#8]) := by decide

/-! ### Single steps -/

/-- V43's request. -/
theorem test_connect_sends :
    seen (exec (.connect 0#8 0#8) (idle)) (fun t => (t.trace, t.fsm)) =
      some ([.xferReq [0x01#8, 0x42#8, 0x00#8, 0x00#8, 0x00#8] 5], .xfer) := by decide
/-- V44. -/
theorem test_connect_without_probe :
    seen (exec (.connect 0#8 0#8) { idle with conn := true, params := { params [] with connectProbe := false } })
      (fun t => (t.conn, t.fsm, t.trace)) = some (false, .idle, [.ret (.bool false)]) := by decide
/-- V47. -/
theorem test_disconnect :
    seen (exec (.disconnect 0#8 0#8) { idle with conn := true, ame := true }) (fun t => (t.conn, t.ame, t.trace)) =
      some (false, true, [.ret .none]) := by decide
/-- V50, V51. -/
theorem test_isConnected :
    seen (exec (.isConnected 0#8 0#8) idle) State.trace = some [.ret (.bool false)] ∧
      seen (exec (.isConnected 0#8 0#8) { idle with conn := true }) State.trace = some [.ret (.bool true)] := by decide
/-- V14, V22's request, and the latches of V35. -/
theorem test_poll_sends_analog :
    seen (exec (.poll 255#8 1#8) { idle with ame := true }) (fun t => (t.trace, t.opa, t.opb)) =
      some ([.xferReq ([0x01#8, 0x42#8] ++ List.replicate 19 0x00#8) 21], 255#8, 1#8) := by decide
/-- R74: `poll` is `POLL 0, 0`. -/
theorem test_poll0 :
    seen (exec .poll0 { idle with opa := 9#8, opb := 9#8 }) (fun t => (t.opa, t.opb, t.curOp, t.trace)) =
      some (0#8, 0#8, .poll, [.xferReq [0x01#8, 0x42#8, 0x00#8, 0x00#8, 0x00#8] 5]) := by decide
/-- V65, row 1. -/
theorem test_enableAnalog_starts :
    seen (exec (.enableAnalog 0#8 0#8) idle) (fun t => (t.trace, t.fsm, t.stepIx)) =
      some ([.xferReq [0x01#8, 0x43#8, 0x00#8, 0x01#8, 0x00#8] 5], .xfer, 0#3) := by decide
/-- V60's first frame. -/
theorem test_disableAnalog_starts :
    seen (exec (.disableAnalog 0#8 0#8) { idle with ame := true }) (fun t => (t.trace, t.curOp, t.ame)) =
      some ([.xferReq [0x01#8, 0x43#8, 0x00#8, 0x01#8, 0x00#8] 5], .disableAnalog, true) := by decide
/-- V11, V12, V67. -/
theorem test_reserved_refused :
    refusal (step (State.reset.offer (.cmd 0x60000#19))) = some .reservedOpcode ∧
      refusal (step (State.reset.offer (.cmd 0x7FFFF#19))) = some .reservedOpcode := by decide
theorem test_fPollD_sent :
    seen (exec .fPollD { idle with curOp := .poll }) State.trace =
      some [.xferReq [0x01#8, 0x42#8, 0x00#8, 0x00#8, 0x00#8] 5] := by decide
theorem test_fPollA_refused_in_digital_mode :
    refusal (exec .fPollA { idle with curOp := .poll }) = some .frameNotSelected := by decide
theorem test_fEnterCfg_sent :
    seen (exec .fEnterCfg { idle with curOp := .disableAnalog }) State.trace =
      some [.xferReq [0x01#8, 0x43#8, 0x00#8, 0x01#8, 0x00#8] 5] := by decide
/-- V65, row 3. -/
theorem test_fSetAnalog_sent :
    seen (step ((inDelay .enableAnalog 0#3).offer .delayDone)) (fun t => (t.trace, t.stepIx)) =
      some ([.xferReq [0x01#8, 0x44#8, 0x00#8, 0x01#8, 0x03#8, 0x00#8, 0x00#8, 0x00#8, 0x00#8] 9], 1#3) := by decide
/-- V65, row 5. -/
theorem test_fEnableMotor_sent :
    seen (step ((inDelay .enableAnalog 1#3).offer .delayDone)) State.trace =
      some [.xferReq [0x01#8, 0x4D#8, 0x00#8, 0x00#8, 0x01#8, 0xFF#8, 0xFF#8, 0xFF#8, 0xFF#8] 9] := by decide
/-- V65, row 7. -/
theorem test_fCfgPressure_sent :
    seen (step ((inDelay .enableAnalog 2#3).offer .delayDone)) State.trace =
      some [.xferReq [0x01#8, 0x4F#8, 0x00#8, 0xFF#8, 0xFF#8, 0x03#8, 0x00#8, 0x00#8, 0x00#8] 9] := by decide
/-- V65, row 9. -/
theorem test_fExitCfg_sent :
    seen (step ((inDelay .enableAnalog 3#3).offer .delayDone)) (fun t => (t.trace, t.stepIx)) =
      some ([.xferReq [0x01#8, 0x43#8, 0x00#8, 0x00#8, 0x5A#8, 0x5A#8, 0x5A#8, 0x5A#8, 0x5A#8] 9], 4#3) := by decide
/-- V60's second frame. -/
theorem test_fSetDigital_sent :
    seen (step ((inDelay .disableAnalog 0#3).offer .delayDone)) State.trace =
      some [.xferReq [0x01#8, 0x44#8, 0x00#8, 0x00#8, 0x03#8, 0x00#8, 0x00#8, 0x00#8, 0x00#8] 9] := by decide
/-- V21: `BTNW = 0x4000`, cross. -/
theorem test_respDigital_poll :
    seen (step ((inXfer .poll 0#3 false).offer (.xferResp (.ok [0xFF#8, 0x41#8, 0x5A#8, 0xFF#8, 0xBF#8])))) view =
      some ⟨true, false, 0x4000#16, false, false, .idle, 0#3⟩ := by decide
/-- V24: the analog registers are held and the sixteen `EE` ignored. -/
theorem test_respDigital_in_analog_mode :
    seen (step ((withSnap (inXfer .poll 0#3 true) true true).offer (.xferResp (.ok rxV24))))
      (fun t => (view t, t.snap.analog .leftX)) = some (⟨true, false, 0x0008#16, false, true, .idle, 0#3⟩, 0x80#8) := by
  decide
/-- V22. -/
theorem test_respAnalog_poll :
    seen (step ((inXfer .poll 0#3 true).offer (.xferResp (.ok rxV22))))
      (fun t => (view t, t.snap.analog .rightX, t.snap.analog .leftX, t.snap.analog .crossPressure,
        t.snap.analog .left2Pressure)) =
      some (⟨true, true, 0x0000#16, false, true, .idle, 0#3⟩, 0x10#8, 0x80#8, 0xFF#8, 0x40#8) := by decide
/-- V45: either code passes the probe; the snapshot is not written. -/
theorem test_respAnalog_probe :
    seen (step ((inXfer .connect 0#3 false).offer (.xferResp (.ok [0xFF#8, 0x73#8, 0x5A#8, 0x00#8, 0x00#8])))) view =
      some ⟨false, false, 0x0000#16, true, false, .idle, 0#3⟩ := by decide
/-- V25: both flags 0, the buttons held. -/
theorem test_respUnexpected_poll :
    seen (step ((withSnap (inXfer .poll 0#3 false) true false).offer
      (.xferResp (.ok [0xFF#8, 0x99#8, 0x5A#8, 0x00#8, 0x00#8])))) view =
      some ⟨false, false, 0x4000#16, false, false, .idle, 0#3⟩ := by decide
/-- V46. -/
theorem test_respUnexpected_probe :
    seen (step ({ inXfer .connect 0#3 false with conn := true }.offer
      (.xferResp (.ok [0xFF#8, 0xFF#8, 0xFF#8, 0xFF#8, 0xFF#8])))) view =
      some ⟨false, false, 0x0000#16, false, false, .idle, 0#3⟩ := by decide
/-- V26: `FAIL` acts as an unexpected response. -/
theorem test_fail_poll :
    seen (step ((withSnap (inXfer .poll 0#3 true) true true).offer (.xferResp .fail)))
      (fun t => (view t, t.conditions)) =
      some (⟨false, false, 0x4000#16, false, true, .idle, 0#3⟩, [.unexpectedResponse]) := by decide
/-- V39: every analog offset. -/
theorem test_every_analog_offset :
    seen (step ((inXfer .poll 0#3 true).offer (.xferResp (.ok rxV39)))) (fun t => t.snap.ana.toList) =
      some [0xA0#8, 0xA1#8, 0xA2#8, 0xA3#8, 0xA4#8, 0xA5#8, 0xA6#8, 0xA7#8, 0xA8#8, 0xA9#8, 0xAA#8, 0xAB#8, 0xAC#8,
        0xAD#8, 0xAE#8, 0xAF#8] := by decide
/-- V37: `0xA5`, `0x3C` give `0xC35A`. -/
theorem test_button_word : buttonWord (buttonsOf 0xA5#8 0x3C#8) = 0xC35A#16 := by decide
/-- V65, row 2. -/
theorem test_handshake_step_validates :
    seen (step ((inXfer .enableAnalog 0#3 false).offer (.xferResp (.ok (okBytes 5))))) (fun t => (view t, t.trace)) =
      some (⟨false, false, 0x0000#16, false, false, .delay, 0#3⟩, [.xferResp (.ok (okBytes 5)), .delay 7]) := by decide
/-- V65, row 10. -/
theorem test_enable_succeeds :
    seen (step ((inXfer .enableAnalog 4#3 false).offer (.xferResp (.ok (okBytes 9))))) (fun t => (view t, t.trace)) =
      some (⟨false, false, 0x0000#16, false, true, .idle, 0#3⟩, [.xferResp (.ok (okBytes 9)), .ret (.bool true)]) := by
  decide
/-- V60's last step. -/
theorem test_disable_succeeds :
    seen (step ((inXfer .disableAnalog 2#3 true).offer (.xferResp (.ok (okBytes 9))))) view =
      some ⟨false, false, 0x0000#16, false, false, .idle, 0#3⟩ := by decide
/-- V58: a failure leaves `AME` at 1. -/
theorem test_enable_fails_keeps_mode :
    seen (step ((inXfer .enableAnalog 2#3 true).offer (.xferResp .fail))) (fun t => (view t, t.trace, t.conditions)) =
      some (⟨false, false, 0x0000#16, false, true, .idle, 0#3⟩, [.xferResp .fail, .ret (.bool false)],
        [.configurationSequenceFailure 2#3]) := by decide
/-- V61: the validator rejects `F_SET_DIGITAL`'s answer. -/
theorem test_disable_rejected :
    seen (step ((inXfer .disableAnalog 1#3 true [(.setDigital, okBytes 9)]).offer (.xferResp (.ok (okBytes 9))))) view =
      some ⟨false, false, 0x0000#16, false, true, .idle, 0#3⟩ := by decide
/-- V67. -/
theorem test_command_while_busy_refused :
    refusal (step ((inDelay .enableAnalog 1#3).offer (.cmd 0x20000#19))) = some .commandWhileBusy := by decide
/-- V70. -/
theorem test_reset_values : view State.reset = ⟨false, false, 0x0000#16, false, false, .idle, 0#3⟩ := by decide

/-! ### Rows of the table run as the first instruction after reset -/

theorem test_placed_host_word :
    seen (step (State.reset.withFetchWord 24 0x31020)) (fun t => (t.opa, t.opb, t.fsm)) =
      some (0x10#8, 0x20#8, .xfer) := by decide
theorem test_placed_frame :
    seen (step (State.reset.withFetchWord 72 0xFFFFFFFF0100004D01)) State.trace =
      some [.xferReq [0x01#8, 0x4D#8, 0x00#8, 0x00#8, 0x01#8, 0xFF#8, 0xFF#8, 0xFF#8, 0xFF#8] 9] := by decide
theorem test_placed_response :
    seen (step (State.reset.withFetchWord 40 0x0000004100)) (fun t => (t.snap.dv, buttonWord t.snap.btn)) =
      some (true, 0xFFFF#16) := by decide

/-! ### Names -/

def Button.all : List Button :=
  [.select, .leftStickClick, .rightStickClick, .start, .dUp, .dRight, .dDown, .dLeft, .left2, .right2, .left1, .right1,
    .triangle, .circle, .cross, .square]

def Analog.all : List Analog :=
  [.rightX, .rightY, .leftX, .leftY, .rightPressure, .leftPressure, .upPressure, .downPressure, .trianglePressure,
    .circlePressure, .crossPressure, .squarePressure, .left1Pressure, .right1Pressure, .left2Pressure, .right2Pressure]

/-- R13: the index of a button is 8 times its byte beyond offset 3, plus its bit. -/
theorem test_button_index : Button.all.all (fun b => b.index.val == (b.source.1 - 3) * 8 + b.source.2) = true := by decide
/-- R103: the default offset of an analog field is 5 plus its index. -/
theorem test_analog_offset : Analog.all.all (fun f => f.defaultOffset == 5 + f.index.val) = true := by decide
/-- R105: the four buttons without a pressure value. -/
theorem test_no_pressure :
    Button.all.filter (fun b => b.pressure.isNone) = [.select, .leftStickClick, .rightStickClick, .start] := by decide
/-- R14: a button and its pressure value are of one group. -/
theorem test_pressure_group :
    Button.all.all (fun b => (b.pressure.map Analog.group).getD b.group == b.group) = true := by decide

/-! ### Witnesses: states and operands that meet the hypotheses of each statement, each clause at its boundary values -/

/-- A pending input in a state. -/
def pending (s : State) (e : Input) : State := { s with inbox := [e] }

theorem test_witness_decodeOfEncode :
    Params.default.framesDistinct = true ∧
      [Instr.connect 0#8 255#8, .reserved true 255#8 0#8, .poll0, .fPollA, .fSetDigital, .respDigital rxV24,
        .respAnalog rxV22, .respUnexpected [0#8, 0#8, 0#8, 0#8, 0#8]].all Instr.wf = true := by decide
theorem test_witness_answers_length :
    2 ≤ 2 ∧ [0x00#8].length ≠ 2 ∧ [0x00#8, 0x73#8].length = 2 ∧ 2 ≤ 21 ∧ rxV22.length = 21 := by decide
theorem test_witness_rom_other_frames : Fid.pollD ≠ .setDigital ∧ Fid.exitCfg ≠ .setDigital := by decide
theorem test_witness_policy_length : (okBytes 5).length = Fid.enterCfg.len ∧ (okBytes 9).length = Fid.setDigital.len := by
  decide
theorem test_witness_stepRuns_answer :
    (inXfer .poll 0#3 true).fsm = .xfer ∧ (inXfer .poll 0#3 true).curOp = .poll ∧
      decodeRx (inXfer .poll 0#3 true).xferLen (.ok rxV22) = .ok (.respAnalog rxV22) ∧
      (inXfer .connect 0#3 false).curOp = .connect ∧
      decodeRx (inXfer .connect 0#3 false).xferLen (.ok [0#8, 0x41#8, 0#8, 0#8, 0#8]) =
        .ok (.respDigital [0#8, 0x41#8, 0#8, 0#8, 0#8]) := by decide
theorem test_witness_stepRuns_delay :
    (inDelay .enableAnalog 3#3).fsm = .delay ∧
      (handshakeSeq (inDelay .enableAnalog 3#3).curOp)[((inDelay .enableAnalog 3#3).stepIx + 1#3).toNat]? =
        some .exitCfg ∧
      (handshakeSeq (inDelay .disableAnalog 0#3).curOp)[((inDelay .disableAnalog 0#3).stepIx + 1#3).toNat]? =
        some .setDigital := by decide
theorem test_witness_placed : State.reset.fsm = .idle ∧ State.reset.stepIx = 0#3 := by decide
theorem test_witness_waits : State.reset.inbox = [] ∧ (inXfer .poll 0#3 false).inbox = [] := by decide
/-- For every statement about a command or an operation that begins in `IDLE`. -/
theorem test_witness_idle : (idle).fsm = .idle ∧ (withSnap idle true true).fsm = .idle := by decide
theorem test_witness_connect_clauses :
    (idle).params.connectProbe = true ∧
      ({ idle with params := { params [] with connectProbe := false } } : State).params.connectProbe = false ∧
      ({ idle with params := { params [] with connectProbe := false } } : State).fsm = .idle := by decide
/-- Each of the eight frames is selected somewhere, with no exchange unanswered. -/
theorem test_witness_selected :
    [({ idle with curOp := .poll } : State), { idle with curOp := .connect, ame := true }, { idle with curOp := .enableAnalog },
      inDelay .enableAnalog 1#3, inDelay .enableAnalog 2#3, inDelay .enableAnalog 3#3, inDelay .enableAnalog 4#3,
      inDelay .disableAnalog 1#3].map (fun s => (s.selected, decide (s.fsm ≠ .xfer))) =
    [(some .pollD, true), (some .pollA, true), (some .enterCfg, true), (some .setAnalog, true), (some .enableMotor, true),
      (some .cfgPressure, true), (some .exitCfg, true), (some .setDigital, true)] := by decide
theorem test_witness_not_selected :
    (inXfer .poll 0#3 false).fsm = .xfer ∧ (idle).fsm ≠ .xfer ∧ (idle).selected ≠ some .setDigital ∧
      (inDelay .enableAnalog 5#3).selected ≠ some .exitCfg := by decide
/-- Both exchange lengths, each class, both values of each flag; a response byte is there for every clause. -/
theorem test_witness_pollAnswer :
    (inXfer .poll 0#3 false).fsm = .xfer ∧ (inXfer .poll 0#3 false).curOp = .poll ∧
      [0xFF#8, 0x41#8, 0x5A#8, 0xFF#8, 0xBF#8].length = (if (inXfer .poll 0#3 false).ame then 21 else 5) ∧
      rxV22.length = (if (inXfer .poll 0#3 true).ame then 21 else 5) ∧ rxV22[3]? = some 0xFF#8 ∧ rxV22[4]? = some 0xFF#8 ∧
      (inXfer .poll 0#3 true).params.wf = true ∧
      seen (exec (RespClass.analog.instr rxV22) (inXfer .poll 0#3 true)) (fun t => (t.snap.dv, t.snap.av)) =
        some (true, true) ∧
      seen (exec (RespClass.digital.instr rxV24) (inXfer .poll 0#3 true)) (fun t => (t.snap.dv, t.snap.av)) =
        some (true, false) ∧
      seen (exec (RespClass.unexpected.instr rxV24) (inXfer .poll 0#3 true)) (fun t => (t.snap.dv, t.snap.av)) =
        some (false, false) := by decide
theorem test_witness_probeAnswer :
    (inXfer .connect 0#3 true).fsm = .xfer ∧ (inXfer .connect 0#3 true).curOp = .connect ∧
      rxV24.length = (if (inXfer .connect 0#3 true).ame then 21 else 5) ∧
      [0#8, 0#8, 0#8, 0#8, 0#8].length = (if (inXfer .connect 0#3 false).ame then 21 else 5) := by decide
theorem test_witness_fault :
    (inXfer .poll 0#3 true).fsm = .xfer ∧ (inXfer .poll 0#3 true).curOp = .poll ∧
      (inXfer .connect 0#3 false).fsm = .xfer ∧ (inXfer .connect 0#3 false).curOp = .connect := by decide
theorem test_witness_failed_poll :
    (inXfer .poll 0#3 false).fsm = .xfer ∧ (inXfer .poll 0#3 false).curOp = .poll ∧
      [0xFF#8, 0x99#8, 0x5A#8, 0x00#8, 0x00#8].length = (if (inXfer .poll 0#3 false).ame then 21 else 5) ∧
      [0xFF#8, 0x99#8, 0x5A#8, 0x00#8, 0x00#8][1]? = some 0x99#8 ∧ 0x99#8 ≠ 0x41#8 ∧ 0x99#8 ≠ 0x73#8 := by decide
theorem test_witness_wrong_length :
    (inXfer .poll 0#3 true).fsm = .xfer ∧ [0#8, 0x41#8, 0#8, 0#8, 0#8].length ≠ (inXfer .poll 0#3 true).xferLen ∧
      (okBytes 5).length ≠ (inXfer .enableAnalog 4#3 true).xferLen := by decide
/-- Branch (a): a rejected answer, at the last step and at the first, and `FAIL`; branch (b); branch (c). -/
theorem test_witness_handshake_rejects :
    (inXfer .enableAnalog 4#3 false [(.exitCfg, okBytes 9)]).fsm = .xfer ∧
      (inXfer .enableAnalog 4#3 false).curOp = .enableAnalog ∧
      (handshakeSeq .enableAnalog)[(4#3).toNat]? = some .exitCfg ∧ (handshakeSeq .disableAnalog)[(0#3).toNat]? = some .enterCfg ∧
      (okBytes 9).length = Fid.exitCfg.len ∧
      verdict (inXfer .enableAnalog 4#3 false [(.exitCfg, okBytes 9)]).params.validator .exitCfg (okBytes 9) = false ∧
      (okBytes 5).length = Fid.enterCfg.len ∧
      verdict (inXfer .disableAnalog 0#3 true [(.enterCfg, okBytes 5)]).params.validator .enterCfg (okBytes 5) = false := by
  decide
theorem test_witness_handshake_accepts :
    (okBytes 9).length = Fid.exitCfg.len ∧ verdict (inXfer .enableAnalog 4#3 false).params.validator .exitCfg (okBytes 9) = true ∧
      (inXfer .enableAnalog 4#3 false).stepIx.toNat + 1 = (handshakeSeq .enableAnalog).length ∧
      (inXfer .disableAnalog 2#3 true).stepIx.toNat + 1 = (handshakeSeq .disableAnalog).length ∧
      (inXfer .enableAnalog 3#3 false).stepIx.toNat + 1 ≠ (handshakeSeq .enableAnalog).length ∧
      (inXfer .disableAnalog 1#3 true).stepIx.toNat + 1 ≠ (handshakeSeq .disableAnalog).length := by decide
theorem test_witness_delayDone :
    (inDelay .enableAnalog 3#3).fsm = .delay ∧ (inDelay .enableAnalog 3#3).sequenced = true ∧
      (inDelay .disableAnalog 1#3).fsm = .delay ∧ (inDelay .disableAnalog 1#3).sequenced = true := by decide
theorem test_witness_reserved_words : 6 ≤ (h19Op 0x60000#19).toNat ∧ 6 ≤ (h19Op 0x7FFFF#19).toNat := by decide
theorem test_witness_busy :
    (inXfer .poll 0#3 false).fsm ≠ .idle ∧ (inDelay .enableAnalog 0#3).fsm ≠ .idle ∧ (h19Op 0x00000#19).toNat < 6 ∧
      (h19Op 0x5FFFF#19).toNat < 6 := by decide
/-- Sequenced states of every kind, with an event that each accepts and one that it does not. -/
theorem test_witness_sequenced :
    (idle).sequenced = true ∧ (inXfer .poll 0#3 false).sequenced = true ∧ (inXfer .enableAnalog 4#3 false).sequenced = true ∧
      (inDelay .disableAnalog 1#3).sequenced = true ∧ (idle).accepts (.cmd 0x50000#19) = true ∧
      (idle).accepts (.cmd 0x60000#19) = false ∧ (inXfer .poll 0#3 false).accepts (.xferResp .fail) = true ∧
      (inDelay .disableAnalog 1#3).accepts .delayDone = true ∧ (inDelay .disableAnalog 1#3).accepts .reset = false := by
  decide
theorem test_witness_unasked :
    (idle).fsm ≠ .xfer ∧ (idle).fsm ≠ .delay ∧ (inXfer .poll 0#3 false).fsm ≠ .idle := by decide
/-- A step from a state that meets the three invariants, of each kind of input. -/
theorem test_witness_invariants :
    (pending (inXfer .enableAnalog 4#3 false) (.xferResp .fail)).inv = true ∧
      seen (step (pending (inXfer .enableAnalog 4#3 false) (.xferResp .fail))) State.fsm = some .idle ∧
      (pending idle (.cmd 0x31020#19)).inv = true ∧ (pending idle (.cmd 0x31020#19)).alternating = true ∧
      (pending idle (.cmd 0x31020#19)).alphabetLegal = true ∧
      seen (step (pending idle (.cmd 0x31020#19))) State.fsm = some .xfer ∧
      (pending (inDelay .enableAnalog 3#3) .delayDone).inv = true ∧
      (pending (inDelay .enableAnalog 3#3) .delayDone).alternating = true ∧
      seen (step (pending (inDelay .enableAnalog 3#3) .delayDone)) State.stepIx = some 4#3 := by decide
/-- `AME` changes: by an enable, by a disable, by a reset. -/
theorem test_witness_ame_changes :
    seen (step (pending (inXfer .enableAnalog 4#3 false) (.xferResp (.ok (okBytes 9))))) State.ame = some true ∧
      seen (step (pending (inXfer .disableAnalog 2#3 true) (.xferResp (.ok (okBytes 9))))) State.ame = some false ∧
      seen (step (pending { idle with ame := true } .reset)) State.ame = some false := by decide
/-- `CONN` changes: by a disconnect, by a connect without the probe, by a probe's answer, by a reset. -/
theorem test_witness_conn_changes :
    seen (step (pending { idle with conn := true } (.cmd 0x10000#19))) State.conn = some false ∧
      seen (step (pending { idle with conn := true, params := { params [] with connectProbe := false } } (.cmd 0x00000#19)))
        State.conn = some false ∧
      seen (step (pending (inXfer .connect 0#3 true) (.xferResp (.ok rxV24)))) State.conn = some true ∧
      seen (step (pending { idle with conn := true } .reset)) State.conn = some false := by decide
/-- The snapshot changes: by a poll's answer, by a reset. -/
theorem test_witness_snap_changes :
    seen (step (pending (inXfer .poll 0#3 true) (.xferResp (.ok rxV22)))) (fun t => decide (t.snap ≠ (idle).snap)) =
        some true ∧
      seen (step (pending (withSnap idle true true) .reset)) (fun t => decide (t.snap ≠ (withSnap idle true true).snap)) =
        some true := by decide
theorem test_witness_cleanEntry : (idle).cleanEntry = true := by decide
theorem test_witness_allValidate :
    allValidate (idle).params.validator (fun k => .ok (okBytes (if k = 0 then 5 else 9))) 0 (handshakeSeq .enableAnalog) =
        true ∧
      allValidate (idle).params.validator (fun k => .ok (okBytes (if k = 0 then 5 else 9))) 0 (handshakeSeq .disableAnalog) =
        true ∧ (idle).ame = false := by decide
/-- A handshake that fails at its first step (V53), at its last (V57), and a disable that fails at its last. -/
theorem test_witness_failsAt :
    0 < (handshakeSeq .enableAnalog).length ∧
      failsAt (idle).params.validator (fun _ => .fail) (handshakeSeq .enableAnalog) 0 = true ∧
      4 < (handshakeSeq .enableAnalog).length ∧
      failsAt (idle [(.exitCfg, okBytes 9)]).params.validator (fun k => .ok (okBytes (if k = 0 then 5 else 9)))
        (handshakeSeq .enableAnalog) 4 = true ∧
      2 < (handshakeSeq .disableAnalog).length ∧
      failsAt (idle [(.exitCfg, okBytes 9)]).params.validator (fun k => .ok (okBytes (if k = 0 then 5 else 9)))
        (handshakeSeq .disableAnalog) 2 = true := by decide
theorem test_witness_same_answer : (fun _ => Answer.ok rxV22 : Nat → Answer) 0 = (fun _ => Answer.ok rxV22 : Nat → Answer) 0 :=
  rfl
/-- V38's snapshot as an encoded frame: the frame is V38's. -/
theorem test_witness_encodeSnap :
    ({ idle with ame := true } : State).fsm = .idle ∧ ({ idle with ame := true } : State).params.wf = true ∧
      encodeSnap (idle).params.analogMap 0xFF#8 0x5A#8
        ((((Vector.replicate 16 false).set 14 true).set 7 true).set 8 true)
        #v[0x80#8, 0x80#8, 0x80#8, 0x80#8, 0x00#8, 0x90#8, 0x00#8, 0x00#8, 0x00#8, 0x00#8, 0xC8#8, 0x00#8, 0x00#8, 0x00#8,
          0x33#8, 0x00#8] =
      [0xFF#8, 0x73#8, 0x5A#8, 0x7F#8, 0xBE#8, 0x80#8, 0x80#8, 0x80#8, 0x80#8, 0x00#8, 0x90#8] ++
        [0x00#8, 0x00#8, 0x00#8, 0x00#8, 0xC8#8, 0x00#8, 0x00#8, 0x00#8, 0x33#8, 0x00#8] := by decide
/-- Two analog answers that differ at offset 0 only give the same snapshot; offsets 3 and 20 are in the range. -/
theorem test_witness_extraction :
    rxV22.length = 21 ∧ (0x00#8 :: rxV22.tail).length = 21 ∧ rxV22[1]? = some 0x73#8 ∧
      (0x00#8 :: rxV22.tail)[1]? = some 0x73#8 ∧ rxV22 ≠ 0x00#8 :: rxV22.tail ∧
      ∃ t t', runOp .poll 0#8 0#8 (fun _ => .ok rxV22) { idle with ame := true } = .next t ∧
        runOp .poll 0#8 0#8 (fun _ => .ok (0x00#8 :: rxV22.tail)) { idle with ame := true } = .next t' ∧
        t.snap = t'.snap := by
  refine ⟨by decide, by decide, by decide, by decide, by decide, _, _, rfl, rfl, by decide⟩
/-- A button of each byte, its bit clear and its bit set. -/
theorem test_witness_button :
    [0xFF#8, 0x41#8, 0x5A#8, 0xFE#8, 0x7F#8].length = (if (idle).ame then 21 else 5) ∧
      [0xFF#8, 0x41#8, 0x5A#8, 0xFE#8, 0x7F#8][1]? = some 0x41#8 ∧
      [0xFF#8, 0x41#8, 0x5A#8, 0xFE#8, 0x7F#8][Button.select.source.1]? = some 0xFE#8 ∧
      [0xFF#8, 0x41#8, 0x5A#8, 0xFE#8, 0x7F#8][Button.square.source.1]? = some 0x7F#8 ∧
      (0xFE#8).getLsbD Button.select.source.2 = false ∧ (0x7F#8).getLsbD Button.square.source.2 = false ∧
      (0xFE#8).getLsbD Button.dLeft.source.2 = true := by decide
theorem test_witness_analog_fields :
    ({ idle with ame := true } : State).ame = true ∧ rxV39.length = 21 ∧ rxV39[1]? = some 0x73#8 ∧
      (idle).params.analogMap = Params.default.analogMap ∧
      ({ params [] with analogMap := #v[1, 0, 2, 3, 4, 5, 6, 7, 8, 9, 10, 11, 12, 13, 14, 15] } : Params).wf = true := by
  decide

/-! ### The textual form (R73; where blanks may stand is log entry 15) -/

theorem test_poll_operands_of_p2_line : assembleLine "poll 0x10, 0x20 ; rumble".toList = some 0x31020#19 := by decide

theorem test_blanks_around_operands_are_skipped : assembleLine " poll  7 , 9 ".toList = some 0x30709#19 := by decide

theorem test_blank_inside_operand_is_no_line : assembleLine "poll 1 2, 3".toList = none := by decide

end Sys2Proof.Tests
end

/-! SUPPORT. The transitions and the big-step rules agree (R11, R135). The forward equations of the small-step machine
(the drive, the end of a delay, the answer to a poll or a probe) in the terms of the big-step rules, and the simulation
of a handshake's loop, from which the statement is assembled. -/

namespace Sys2Proof.Machine

/-! ### The drive, one step at a time -/

theorem drive_of_xfer (orc : Nat → Answer) (fuel k : Nat) {s : State} (h : s.fsm = .xfer) :
    drive orc (fuel + 1) k s = andThen (onInput (.xferResp (orc k)) s) (drive orc fuel (k + 1)) := by
  simp [drive, h]

theorem drive_of_delay (orc : Nat → Answer) (fuel k : Nat) {s : State} (h : s.fsm = .delay) :
    drive orc (fuel + 1) k s = andThen (onInput .delayDone s) (drive orc fuel k) := by
  simp [drive, h]

/-- An operation is its decoded command, driven to its end. -/
theorem runOp_eq (op : Op) (a b : Byte) (orc : Nat → Answer) (s : State) :
    runOp op a b orc s = andThen (exec (op.instr a b) s) (drive orc 9 0) := by
  rw [runOp, runWord, step_offer, onInput, onCmd, decodeH19_opWord]

/-- The block waiting for the answer to a frame: the request is out. -/
def State.sent (s : State) (fid : Fid) : State :=
  { s with fsm := .xfer }.emit (.xferReq (rom s.params fid) fid.len)

@[simp] theorem State.sent_fsm (s : State) (fid : Fid) : (s.sent fid).fsm = .xfer := rfl
@[simp] theorem State.sent_curOp (s : State) (fid : Fid) : (s.sent fid).curOp = s.curOp := rfl
@[simp] theorem State.sent_stepIx (s : State) (fid : Fid) : (s.sent fid).stepIx = s.stepIx := rfl
@[simp] theorem State.sent_params (s : State) (fid : Fid) : (s.sent fid).params = s.params := rfl

theorem sendFrame_of_selected {fid : Fid} {s : State} (hf : s.fsm ≠ .xfer) (hs : s.selected = some fid) :
    sendFrame fid s = .next (s.sent fid) :=
  sendFrame_eq_next.2 ⟨hf, hs, rfl⟩

/-! ### The answer to a poll or a probe -/

theorem bigClass_of_getElem? {rx : Frame} {d : Byte} (h : rx[1]? = some d) : bigClass rx = classify d := by
  rw [bigClass, h]; rfl

theorem bigAnswer_of_ok {n : Nat} {r : Answer} {rx : Frame} (h : r.bytes n = .ok rx) : bigAnswer n r = rx := by
  simp [bigAnswer, h]

theorem bigAnswer_of_error {n : Nat} {r : Answer} {e : DecodeError} (h : r.bytes n = .error e) :
    bigAnswer n r = [] := by
  simp [bigAnswer, h]

theorem two_le_pollFrame_len (ame : Bool) : 2 ≤ (pollFrame ame).len := by cases ame <;> decide

/-- The decoded answer to a poll or a probe completes the operation in the class, and with the bytes, that the big-step
rules read from it; no bytes count as an unexpected class (R93, R96, R143). -/
theorem onPollResp_eq_complete (r : Answer) {s : State} (hx : s.fsm = .xfer) (hn : 2 ≤ s.xferLen) :
    onPollResp r s =
      complete (bigClass (bigAnswer s.xferLen r)) r (r.bytes s.xferLen).toOption (s.emit (.xferResp r)) := by
  cases hb : r.bytes s.xferLen with
  | error e => rw [onPollResp, decodeRx, hb, bigAnswer_of_error hb]; rfl
  | ok rx =>
    obtain ⟨rfl, hlen⟩ := bytes_eq_ok.1 hb
    have hd : rx[1]? = some rx[1] := List.getElem?_eq_getElem (by omega)
    simp only [onPollResp, decodeRx, hb, classifyFrame, hd, exec_resp, receive, if_pos hx, if_pos hlen,
      bigAnswer_of_ok hb, bigClass_of_getElem? hd]
    rfl

/-- What a poll makes of a string of the length asked for is what the big-step rule makes of it (R90). -/
theorem pollSnap_eq_bigPollSnap {map : Vector (Fin 16) 16} {ame : Bool} {rx : Frame}
    (h : rx.length = (pollFrame ame).len) (old : Snap) :
    pollSnap map ame (bigClass rx) rx old = .ok (bigPollSnap map ame rx old) := by
  rw [pollSnap_of_length h]
  cases hc : bigClass rx <;> simp [bigPollSnap, hc, flagDV, flagAV]

theorem complete_poll {s : State} (ho : s.curOp = .poll) (cls : RespClass) (r : Answer) (rx : Option Frame) :
    complete cls r rx s = completePoll cls rx s := by
  rw [complete, ho]

theorem complete_connect {s : State} (ho : s.curOp = .connect) (cls : RespClass) (r : Answer) (rx : Option Frame) :
    complete cls r rx s = completeProbe cls rx s := by
  rw [complete, ho]

/-- The answer to a poll, whatever it is, completes it as the big-step rule says (R90, R96, R129). -/
theorem onInput_poll_answer (r : Answer) {s : State} (hx : s.fsm = .xfer) (ho : s.curOp = .poll) :
    onInput (.xferResp r) s =
      let rx := bigAnswer (pollFrame s.ame).len r
      let snap := bigPollSnap s.params.analogMap s.ame rx s.snap
      .next (({ s.emit (.xferResp r) with snap := snap }.signalIf (bigClass rx == RespClass.unexpected)
        .unexpectedResponse).finish (.snap snap)) := by
  have hlen := xferLen_poll ho
  have hrun : onInput (.xferResp r) s = onPollResp r s := by simp [onInput, onXferResp, hx, ho]
  rw [hrun, onPollResp_eq_complete r hx (hlen ▸ two_le_pollFrame_len _), hlen,
    complete_poll (s := s.emit (.xferResp r)) ho]
  cases hb : r.bytes (pollFrame s.ame).len with
  | error e =>
    rw [bigAnswer_of_error hb]
    simp [completePoll, Except.toOption, bigPollSnap, bigClass, State.signal, ho]
  | ok rx =>
    rw [bigAnswer_of_ok hb]
    simp [completePoll, Except.toOption, pollSnap_eq_bigPollSnap (bytes_eq_ok.1 hb).2]

/-- The probe's check is the class of the answer: either valid discriminator passes (R86). -/
theorem bigProbe_of_bytes {fid : Fid} {r : Answer} {rx : Frame} (h : r.bytes fid.len = .ok rx) (hn : 2 ≤ fid.len) :
    bigProbe fid r = (bigClass rx == .digital || bigClass rx == .analog) := by
  have hlen := (bytes_eq_ok.1 h).2
  have hd : rx[1]? = some rx[1] := List.getElem?_eq_getElem (by omega)
  rw [bigClass_of_getElem? hd, classify]
  simp only [bigProbe, h, hd, Option.some.injEq]
  by_cases hdig : rx[1] = discDigital
  · simp [hdig]
  · by_cases hana : rx[1] = discAnalog
    · simp [hana, show discAnalog ≠ discDigital by decide]
    · simp [hdig, hana]

/-- The answer to a probe, whatever it is, completes it as the big-step rule says (R86, R130). -/
theorem onInput_probe_answer (r : Answer) {s : State} (hx : s.fsm = .xfer) (ho : s.curOp = .connect) :
    onInput (.xferResp r) s =
      let ok := bigProbe (pollFrame s.ame) r
      .next (({ s.emit (.xferResp r) with conn := ok }.signalIf (!ok) .connectionCheckFailure).finish (.bool ok)) := by
  have hlen := xferLen_connect ho
  have hrun : onInput (.xferResp r) s = onPollResp r s := by simp [onInput, onXferResp, hx, ho]
  rw [hrun, onPollResp_eq_complete r hx (hlen ▸ two_le_pollFrame_len _), hlen,
    complete_connect (s := s.emit (.xferResp r)) ho]
  cases hb : r.bytes (pollFrame s.ame).len with
  | error e => simp [completeProbe, Except.toOption, bigProbe, hb, State.signal, ho]
  | ok rx =>
    rw [bigAnswer_of_ok hb, bigProbe_of_bytes hb (two_le_pollFrame_len _)]
    rfl

/-- A poll's exchange, from its request on, ends in the big-step rule's state (R90). -/
theorem drive_poll (orc : Nat → Answer) (fuel : Nat) {s : State} (ho : s.curOp = .poll) :
    drive orc (fuel + 1) 0 (s.sent (pollFrame s.ame)) = .next (bigPoll orc s) := by
  rw [drive_of_xfer _ _ _ rfl, onInput_poll_answer _ (s.sent_fsm _) ho, andThen_next, drive_of_idle _ _ rfl]
  simp only [bigPoll, State.signalIf_eq]
  rfl

/-- A probe's exchange, from its request on, ends in the big-step rule's state (R86). -/
theorem drive_probe (orc : Nat → Answer) (fuel : Nat) {s : State} (ho : s.curOp = .connect)
    (hp : s.params.connectProbe = true) :
    drive orc (fuel + 1) 0 (s.sent (pollFrame s.ame)) = .next (bigConnect orc s) := by
  rw [drive_of_xfer _ _ _ rfl, onInput_probe_answer _ (s.sent_fsm _) ho, andThen_next, drive_of_idle _ _ rfl]
  simp only [bigConnect, hp, State.signalIf_eq]
  rfl

/-! ### The handshakes -/

/-- The end of a delay sends the frame of the next step (R132). -/
theorem drive_delayDone (orc : Nat → Answer) (fuel k : Nat) {s : State} {fid : Fid} (hf : s.fsm = .delay)
    (ho : s.curOp = .enableAnalog ∨ s.curOp = .disableAnalog)
    (hs : (handshakeSeq s.curOp)[(s.stepIx + 1#3).toNat]? = some fid) :
    drive orc (fuel + 1) k s = drive orc fuel k ({ s with stepIx := s.stepIx + 1#3 }.sent fid) := by
  have hsel : { s with stepIx := s.stepIx + 1#3 }.selected = some fid := by
    rcases ho with ho | ho <;> simpa [State.selected, ho] using hs
  rw [drive_of_delay _ _ _ hf]
  simp only [onInput, onDelayDone, if_pos hf, hs, exec_frame]
  rw [sendFrame_of_selected (by simp [hf]) hsel, andThen_next]

/-- The rest of a handshake's loop from step `i` on, once the delay before that step is over (R111). -/
def bigHandshakeFrom (orc : Nat → Answer) (target : Bool) (i : Nat) (fid : Fid) (fids : List Fid) (s : State) :
    State :=
  if bigValidated s.params.validator fid (orc i) then bigHandshake orc target (i + 1) fids (bigXfer fid (orc i) s)
  else
    { (bigXfer fid (orc i) s).signal (.configurationSequenceFailure (BitVec.ofNat 3 i)) with stepIx := 0#3 }.finish
      (.bool false)

/-- No delay comes before the first step. -/
theorem bigHandshake_zero (orc : Nat → Answer) (target : Bool) (fid : Fid) (fids : List Fid) (s : State) :
    bigHandshake orc target 0 (fid :: fids) s = bigHandshakeFrom orc target 0 fid fids s := rfl

/-- One delay comes before every later step. -/
theorem bigHandshake_succ (orc : Nat → Answer) (target : Bool) (i : Nat) (fid : Fid) (fids : List Fid) (s : State) :
    bigHandshake orc target (i + 1) (fid :: fids) s =
      bigHandshakeFrom orc target (i + 1) fid fids (s.emit (.delay s.params.stepDelay)) := by
  rw [bigHandshake_cons, if_pos i.succ_pos]; rfl

/-- What the frames still to send say of the step: its frame, that `step` can hold its index, and what is left. -/
theorem handshakeSeq_drop_eq_cons {op : Op} {i : Nat} {fid : Fid} {fids : List Fid}
    (h : (handshakeSeq op).drop i = fid :: fids) :
    (handshakeSeq op)[(BitVec.ofNat 3 i).toNat]? = some fid ∧ (BitVec.ofNat 3 i).toNat = i ∧
      (handshakeSeq op).length = i + 1 + fids.length ∧ (handshakeSeq op).drop (i + 1) = fids := by
  have hle : (handshakeSeq op).length ≤ 5 := by cases op <;> decide
  have hlen : (handshakeSeq op).length - i = fids.length + 1 := by simpa using congrArg List.length h
  have hix : (BitVec.ofNat 3 i).toNat = i := by rw [BitVec.toNat_ofNat]; omega
  refine ⟨?_, hix, by omega, ?_⟩
  · rw [hix, ← List.head?_drop, h, List.head?_cons]
  · simpa using congrArg List.tail h

/-- Simulation of the loop of `Handshake`: with the request of step `i` out, the machine's steps end where the
big-step loop ends from step `i` on (R111, R131, R132). -/
theorem drive_handshake (orc : Nat → Answer) (fuel : Nat) (fids : List Fid) (i : Nat) (fid : Fid) (s : State)
    (ho : s.curOp = .enableAnalog ∨ s.curOp = .disableAnalog) (h : (handshakeSeq s.curOp).drop i = fid :: fids) :
    drive orc (fuel + 2 * fids.length + 1) i ({ s with stepIx := BitVec.ofNat 3 i }.sent fid) =
      .next (bigHandshakeFrom orc (handshakeTarget s.curOp) i fid fids s) := by
  obtain ⟨hfid, hix, hlen, hrest⟩ := handshakeSeq_drop_eq_cons h
  have hans := onInput_handshake_answer (s := { s with stepIx := BitVec.ofNat 3 i }.sent fid) (r := orc i) rfl ho hfid
  rw [drive_of_xfer _ _ _ rfl, hans, bigHandshakeFrom]
  simp only [State.sent_params, State.sent_stepIx, State.sent_curOp, hix, hlen]
  cases hv : bigValidated s.params.validator fid (orc i) with
  | false =>
    simp only [Bool.false_eq_true, if_false, andThen_next]
    exact drive_of_idle _ _ rfl _
  | true =>
    simp only [if_true]
    cases fids with
    | nil =>
      rw [if_pos (by simp), andThen_next, drive_of_idle _ _ rfl]
      rfl
    | cons fid' fids =>
      have hnext := (handshakeSeq_drop_eq_cons hrest).1
      have ih := drive_handshake orc fuel fids (i + 1) fid'
        ((bigXfer fid (orc i) s).emit (.delay s.params.stepDelay)) ho hrest
      rw [BitVec.ofNat_add] at hnext ih
      rw [if_neg (by simp), andThen_next, bigHandshake_succ]
      exact Eq.trans (drive_delayDone _ _ _ rfl ho hnext) ih

/-! ### The agreement -/

/-- A handshake, from its command on: the frame of step 0 goes out with no delay before it (R128), and the loop
follows. -/
theorem drive_startHandshake (op : Op) (a b : Byte) (orc : Nat → Answer) (fids : List Fid) {s : State}
    (hf : s.fsm = .idle) (ho : op = .enableAnalog ∨ op = .disableAnalog)
    (hseq : handshakeSeq op = .enterCfg :: fids) (hle : fids.length ≤ 4) :
    andThen (startHandshake op a b s) (drive orc 9 0) =
      .next (bigHandshake orc (handshakeTarget op) 0 (handshakeSeq op) (s.accept op a b)) := by
  have hsel : { s.accept op a b with stepIx := 0#3 }.selected = some .enterCfg := by
    rcases ho with rfl | rfl <;> rfl
  obtain ⟨fuel, hfuel⟩ : ∃ fuel, 9 = fuel + 2 * fids.length + 1 := ⟨8 - 2 * fids.length, by omega⟩
  rw [startHandshake, whenIdle_of_idle hf, sendFrame_of_selected (by simp [hf]) hsel, andThen_next, hfuel, hseq,
    bigHandshake_zero]
  exact drive_handshake orc fuel fids 0 .enterCfg (s.accept op a b) ho hseq

/-- Settles O43, operation by operation: a poll or a probe by its one exchange, a handshake by the simulation of its
loop. -/
theorem smallStepsAgreeWithBigStep : Obligations.SmallStepsAgreeWithBigStep := by
  intro op a b orc s hf
  rw [runOp_eq]
  cases op with
  | connect =>
    simp only [Op.instr, exec, execConnect, whenIdle_of_idle hf]
    cases hp : s.params.connectProbe with
    | false =>
      rw [if_neg (by simp [hp]), andThen_next, drive_of_idle _ _ rfl, bigStep, bigConnect, if_pos hp]
      rfl
    | true =>
      rw [if_pos (by simp [hp]), sendFrame_of_selected (by simp [hf]) (selected_connect rfl), andThen_next]
      exact drive_probe orc 8 rfl hp
  | disconnect =>
    simp only [Op.instr, exec, execDisconnect, whenIdle_of_idle hf, andThen_next]
    exact drive_of_idle _ _ rfl _
  | isConnected =>
    simp only [Op.instr, exec, execIsConnected, whenIdle_of_idle hf, andThen_next]
    exact drive_of_idle _ _ rfl _
  | poll =>
    simp only [Op.instr, exec, execPoll, whenIdle_of_idle hf]
    rw [sendFrame_of_selected (by simp [hf]) (selected_poll rfl), andThen_next]
    exact drive_poll orc 8 rfl
  | enableAnalog => exact drive_startHandshake .enableAnalog a b orc _ hf (.inl rfl) rfl (by decide)
  | disableAnalog => exact drive_startHandshake .disableAnalog a b orc _ hf (.inr rfl) rfl (by decide)

end Sys2Proof.Machine

/-! SUPPORT. What the block's state keeps (10_state.md): the invariant along every step, and the only writers of `AME`,
`CONN`, `SNAP` and the parameters. One exact inversion of an answer, then one lemma per register, from which the
statements follow. -/

namespace Sys2Proof.Machine

/-! ### What an answer does, exactly -/

/-- What an accepted answer does, with the condition it signals in its converted form (R129 to R131, R139): a poll or a
probe completes; a handshake aborts, succeeds at its last step, or waits for the delay. -/
theorem onXferResp_next_exact {r : Answer} {s t : State} (h : onXferResp r s = .next t) :
    s.fsm = .xfer ∧
      ((s.curOp = .poll ∧ ∃ snap failed,
          snap = bigPollSnap s.params.analogMap s.ame (bigAnswer (pollFrame s.ame).len r) s.snap ∧
          t = ({ s.emit (.xferResp r) with snap := snap }.signalIf failed .unexpectedResponse).finish (.snap snap)) ∨
       (s.curOp = .connect ∧ ∃ ok,
          t = ({ s.emit (.xferResp r) with conn := ok }.signalIf (!ok) .connectionCheckFailure).finish (.bool ok)) ∨
       ((s.curOp = .enableAnalog ∨ s.curOp = .disableAnalog) ∧
        ∃ fid, (handshakeSeq s.curOp)[s.stepIx.toNat]? = some fid ∧
         (t = endHandshake false ((s.emit (.xferResp r)).signal (.configurationSequenceFailure s.stepIx)) ∨
          (bigValidated s.params.validator fid r = true ∧ s.stepIx.toNat + 1 = (handshakeSeq s.curOp).length ∧
            t = endHandshake true { s.emit (.xferResp r) with ame := handshakeTarget s.curOp }) ∨
          (s.stepIx.toNat + 1 ≠ (handshakeSeq s.curOp).length ∧
            t = { s.emit (.xferResp r) with fsm := .delay }.emit (.delay s.params.stepDelay))))) := by
  obtain ⟨hx, hcs⟩ := onXferResp_next h
  refine ⟨hx, ?_⟩
  change onInput (.xferResp r) s = .next t at h
  rcases hcs with ⟨ho, -⟩ | ⟨ho, -⟩ | ⟨ho, hc⟩
  · rw [onInput_poll_answer r hx ho] at h
    cases h; exact .inl ⟨ho, _, _, rfl, rfl⟩
  · rw [onInput_probe_answer r hx ho] at h
    cases h; exact .inr (.inl ⟨ho, _, rfl⟩)
  · refine .inr (.inr ⟨ho, ?_⟩)
    obtain ⟨fid, hfid⟩ : ∃ fid, (handshakeSeq s.curOp)[s.stepIx.toNat]? = some fid := by
      rcases completeHandshake_cases r (s.emit (.xferResp r)) with ⟨hr, -⟩ | ⟨fid, hfid, -⟩
      · rw [hr] at hc; cases hc
      · exact ⟨fid, hfid⟩
    refine ⟨fid, hfid, ?_⟩
    rw [onInput_handshake_answer hx ho hfid] at h
    split at h
    · split at h
      · cases h; exact .inr (.inl ⟨‹_›, ‹_›, rfl⟩)
      · cases h; exact .inr (.inr ⟨‹_›, rfl⟩)
    · cases h; exact .inl rfl

theorem bigValidated_eq_true {v : Validator} {fid : Fid} {r : Answer} (h : bigValidated v fid r = true) :
    ∃ rx, r = .ok rx ∧ rx.length = fid.len ∧ verdict v fid rx = true := by
  cases hb : r.bytes fid.len with
  | error e => simp [bigValidated, hb] at h
  | ok rx =>
    obtain ⟨hr, hlen⟩ := bytes_eq_ok.1 hb
    exact ⟨rx, hr, hlen, by rwa [bigValidated_of_bytes hb] at h⟩

/-- Both handshakes end with `F_EXIT_CFG`, at step 4 and at step 2 (R111). -/
theorem handshakeSeq_last {op : Op} {i : Nat} {fid : Fid} (h : (handshakeSeq op)[i]? = some fid)
    (hlast : i + 1 = (handshakeSeq op).length) :
    fid = .exitCfg ∧ (op = .enableAnalog ∧ i = 4 ∨ op = .disableAnalog ∧ i = 2) := by
  cases op with
  | enableAnalog =>
    obtain rfl : i = 4 := by simpa [handshakeSeq] using hlast
    exact ⟨by simpa [handshakeSeq, eq_comm] using h, .inl ⟨rfl, rfl⟩⟩
  | disableAnalog =>
    obtain rfl : i = 2 := by simpa [handshakeSeq] using hlast
    exact ⟨by simpa [handshakeSeq, eq_comm] using h, .inr ⟨rfl, rfl⟩⟩
  | connect | disconnect | isConnected | poll => simp [handshakeSeq] at h

/-! ### The writers of each register -/

/-- `AME` is written at the validated last step of a handshake and by a reset (R20, R117). -/
theorem onInput_ame {e : Input} {s t : State} (h : onInput e s = .next t) :
    t.ame = s.ame ∨
    (∃ rx, e = .xferResp (.ok rx) ∧ s.fsm = .xfer ∧ rx.length = 9 ∧ verdict s.params.validator .exitCfg rx = true ∧
      ((s.curOp = .enableAnalog ∧ s.stepIx.toNat = 4 ∧ t.ame = true) ∨
        (s.curOp = .disableAnalog ∧ s.stepIx.toNat = 2 ∧ t.ame = false))) ∨
    (e = .reset ∧ s.fsm = .idle ∧ t.ame = false) := by
  cases e with
  | cmd w =>
    obtain ⟨-, op, -, ⟨-, rfl⟩ | ⟨-, rfl⟩ | ⟨-, -, rfl⟩ | ⟨-, rfl⟩ | ⟨-, rfl⟩⟩ := onCmd_next h <;> exact .inl rfl
  | delayDone => obtain ⟨-, fid, -, rfl⟩ := onDelayDone_next h; exact .inl rfl
  | reset => obtain ⟨hf, rfl⟩ := onReset_next h; exact .inr (.inr ⟨rfl, hf, rfl⟩)
  | xferResp r =>
    obtain ⟨hx, ⟨-, snap, q, -, rfl⟩ | ⟨-, ok, rfl⟩ | ⟨-, fid, hfid, hcs⟩⟩ := onXferResp_next_exact h
    · exact .inl (by simp)
    · exact .inl (by simp)
    · rcases hcs with rfl | ⟨hv, hlast, rfl⟩ | ⟨-, rfl⟩
      · exact .inl rfl
      · obtain ⟨rfl, hop⟩ := handshakeSeq_last hfid hlast
        obtain ⟨rx, rfl, hlen, hv⟩ := bigValidated_eq_true hv
        refine .inr (.inl ⟨rx, rfl, hx, hlen, hv, hop.imp ?_ ?_⟩) <;>
          exact fun ⟨ho, hi⟩ => ⟨ho, hi, congrArg handshakeTarget ho⟩
      · exact .inl rfl

/-- `CONN` is written by `DISCONNECT`, by `CONNECT` without the probe, by the probe's answer and by a reset (R19). -/
theorem onInput_conn {e : Input} {s t : State} (h : onInput e s = .next t) :
    t.conn = s.conn ∨
    (∃ w, e = .cmd w ∧ s.fsm = .idle ∧ t.conn = false ∧
      ((h19Op w).toNat = 1 ∨ ((h19Op w).toNat = 0 ∧ s.params.connectProbe = false))) ∨
    (∃ r, e = .xferResp r ∧ s.fsm = .xfer ∧ s.curOp = .connect) ∨
    (e = .reset ∧ s.fsm = .idle ∧ t.conn = false) := by
  cases e with
  | cmd w =>
    obtain ⟨hf, op, hw, ⟨rfl, rfl⟩ | ⟨-, rfl⟩ | ⟨rfl, hp, rfl⟩ | ⟨-, rfl⟩ | ⟨-, rfl⟩⟩ := onCmd_next h
    · exact .inr (.inl ⟨w, rfl, hf, rfl, .inl (by rw [hw]; rfl)⟩)
    · exact .inl rfl
    · exact .inr (.inl ⟨w, rfl, hf, rfl, .inr ⟨by rw [hw]; rfl, hp⟩⟩)
    · exact .inl rfl
    · exact .inl rfl
  | delayDone => obtain ⟨-, fid, -, rfl⟩ := onDelayDone_next h; exact .inl rfl
  | reset => obtain ⟨hf, rfl⟩ := onReset_next h; exact .inr (.inr (.inr ⟨rfl, hf, rfl⟩))
  | xferResp r =>
    obtain ⟨hx, ⟨-, snap, q, -, rfl⟩ | ⟨ho, -⟩ | ⟨-, fid, -, hcs⟩⟩ := onXferResp_next_exact h
    · exact .inl (by simp)
    · exact .inr (.inr (.inl ⟨r, rfl, hx, ho⟩))
    · rcases hcs with rfl | ⟨-, -, rfl⟩ | ⟨-, rfl⟩ <;> exact .inl rfl

/-- `SNAP` is written by the answer to a poll, which returns it in the same step, and by a reset (R18, R29). -/
theorem onInput_snap {e : Input} {s t : State} (h : onInput e s = .next t) :
    t.snap = s.snap ∨
    (∃ r, e = .xferResp r ∧ s.fsm = .xfer ∧ s.curOp = .poll ∧ t.fsm = .idle ∧
      t.trace = s.trace ++ [.xferResp r, .ret (.snap t.snap)] ∧
      t.snap = bigPollSnap s.params.analogMap s.ame (bigAnswer (pollFrame s.ame).len r) s.snap) ∨
    (e = .reset ∧ s.fsm = .idle ∧ t.snap = State.reset.snap) := by
  cases e with
  | cmd w =>
    obtain ⟨-, op, -, ⟨-, rfl⟩ | ⟨-, rfl⟩ | ⟨-, -, rfl⟩ | ⟨-, rfl⟩ | ⟨-, rfl⟩⟩ := onCmd_next h <;> exact .inl rfl
  | delayDone => obtain ⟨-, fid, -, rfl⟩ := onDelayDone_next h; exact .inl rfl
  | reset => obtain ⟨hf, rfl⟩ := onReset_next h; exact .inr (.inr ⟨rfl, hf, rfl⟩)
  | xferResp r =>
    obtain ⟨hx, ⟨ho, snap, q, hsnap, rfl⟩ | ⟨-, ok, rfl⟩ | ⟨-, fid, -, hcs⟩⟩ := onXferResp_next_exact h
    · exact .inr (.inl ⟨r, rfl, hx, ho, rfl, by simp, by simpa using hsnap⟩)
    · exact .inl (by simp)
    · rcases hcs with rfl | ⟨-, -, rfl⟩ | ⟨-, rfl⟩ <;> exact .inl rfl

/-- The condition log is only extended, and never by a transport fault as itself: each is recorded as the condition of
the operation whose exchange failed (R139). -/
theorem onInput_conditions {e : Input} {s t : State} (h : onInput e s = .next t) :
    ∃ cs, t.conditions = s.conditions ++ cs ∧ Condition.transportFault ∉ cs := by
  cases e with
  | cmd w =>
    obtain ⟨-, op, -, ⟨-, rfl⟩ | ⟨-, rfl⟩ | ⟨-, -, rfl⟩ | ⟨-, rfl⟩ | ⟨-, rfl⟩⟩ := onCmd_next h
    · exact ⟨[], by simp⟩
    · exact ⟨[], by simp⟩
    · exact ⟨[.connectionCheckFailure], rfl, by simp⟩
    · exact ⟨[], by simp⟩
    · exact ⟨[], by simp⟩
  | delayDone => obtain ⟨-, fid, -, rfl⟩ := onDelayDone_next h; exact ⟨[], by simp⟩
  | reset => obtain ⟨-, rfl⟩ := onReset_next h; exact ⟨[], by simp⟩
  | xferResp r =>
    obtain ⟨-, ⟨-, snap, q, -, rfl⟩ | ⟨-, ok, rfl⟩ | ⟨-, fid, -, hcs⟩⟩ := onXferResp_next_exact h
    · exact ⟨if q then [.unexpectedResponse] else [], by simp, by cases q <;> simp⟩
    · exact ⟨if ok then [] else [.connectionCheckFailure], by cases ok <;> simp, by cases ok <;> simp⟩
    · rcases hcs with rfl | ⟨-, -, rfl⟩ | ⟨-, rfl⟩
      · exact ⟨[.configurationSequenceFailure s.stepIx], rfl, by simp⟩
      · exact ⟨[], by simp [endHandshake]⟩
      · exact ⟨[], by simp⟩

/-! ### The sequencing triple -/

theorem sequenced_of_idle {s : State} (h : s.fsm = .idle) : s.sequenced = true ↔ s.stepIx = 0#3 := by
  simp [State.sequenced, h]

/-- In `XFER` of a poll or a probe `step` is 0, and a probe is out only where the block probes (R126). -/
theorem sequenced_of_xfer_poll {s : State} (h : s.fsm = .xfer) (ho : s.curOp = .poll) :
    s.sequenced = true ↔ s.stepIx = 0#3 := by
  simp [State.sequenced, h, ho]

theorem sequenced_of_xfer_connect {s : State} (h : s.fsm = .xfer) (ho : s.curOp = .connect) :
    s.sequenced = true ↔ s.stepIx = 0#3 ∧ s.params.connectProbe = true := by
  simp [State.sequenced, h, ho]

/-- In `XFER` of a handshake `step` is in range wherever the table has a frame for it. -/
theorem sequenced_of_xfer_handshake {s : State} {fid : Fid} (h : s.fsm = .xfer)
    (hfid : (handshakeSeq s.curOp)[s.stepIx.toNat]? = some fid) : s.sequenced = true := by
  obtain ⟨hlt, -⟩ := List.getElem?_eq_some_iff.1 hfid
  cases ho : s.curOp with
  | enableAnalog | disableAnalog => simpa [State.sequenced, h, ho, handshakeSeq] using hlt
  | connect | disconnect | isConnected | poll => simp [ho, handshakeSeq] at hlt

/-- In `DELAY` of a handshake a step follows. -/
theorem sequenced_of_delay {s : State} (h : s.fsm = .delay)
    (hlt : s.stepIx.toNat + 1 < (handshakeSeq s.curOp).length) : s.sequenced = true := by
  cases ho : s.curOp with
  | enableAnalog | disableAnalog =>
    simp only [handshakeSeq, ho, List.length_cons, List.length_nil] at hlt
    simp only [State.sequenced, h, ho, decide_eq_true_eq]
    omega
  | connect | disconnect | isConnected | poll => simp [ho, handshakeSeq] at hlt

/-- Every input event leads from a sequenced state to one. -/
theorem onInput_sequenced {e : Input} {s t : State} (hs : s.sequenced = true) (h : onInput e s = .next t) :
    t.sequenced = true := by
  cases e with
  | cmd w =>
    obtain ⟨hf, op, -, hcs⟩ := onCmd_next h
    have h0 : s.stepIx = 0#3 := (sequenced_of_idle hf).1 hs
    rcases hcs with ⟨-, rfl⟩ | ⟨-, rfl⟩ | ⟨-, -, rfl⟩ | ⟨rfl | ⟨rfl, hp⟩, rfl⟩ | ⟨rfl | rfl, rfl⟩
    · exact (sequenced_of_idle rfl).2 h0
    · exact (sequenced_of_idle rfl).2 h0
    · exact (sequenced_of_idle rfl).2 h0
    · exact (sequenced_of_xfer_poll rfl rfl).2 h0
    · exact (sequenced_of_xfer_connect rfl rfl).2 ⟨h0, hp⟩
    · exact sequenced_of_xfer_handshake (fid := .enterCfg) rfl rfl
    · exact sequenced_of_xfer_handshake (fid := .enterCfg) rfl rfl
  | delayDone => obtain ⟨-, fid, hfid, rfl⟩ := onDelayDone_next h; exact sequenced_of_xfer_handshake rfl hfid
  | reset => obtain ⟨-, rfl⟩ := onReset_next h; exact (sequenced_of_idle rfl).2 rfl
  | xferResp r =>
    obtain ⟨hx, ⟨ho, snap, q, -, rfl⟩ | ⟨ho, ok, rfl⟩ | ⟨-, fid, hfid, hcs⟩⟩ := onXferResp_next_exact h
    · exact (sequenced_of_idle rfl).2 (by simpa using (sequenced_of_xfer_poll hx ho).1 hs)
    · exact (sequenced_of_idle rfl).2 (by simpa using ((sequenced_of_xfer_connect hx ho).1 hs).1)
    · rcases hcs with rfl | ⟨-, -, rfl⟩ | ⟨hnl, rfl⟩
      · exact (sequenced_of_idle rfl).2 rfl
      · exact (sequenced_of_idle rfl).2 rfl
      · obtain ⟨hlt, -⟩ := List.getElem?_eq_some_iff.1 hfid
        exact sequenced_of_delay rfl (lt_of_le_of_ne hlt hnl)

/-! ### The invariant -/

theorem inv_iff {s : State} :
    s.inv = true ↔
      s.sequenced = true ∧ s.snap.flagsLegal = true ∧ s.params.wf = true ∧ Condition.transportFault ∉ s.conditions := by
  simp [State.inv, State.conditionsLegal, and_assoc, List.forall_mem_ne']

/-- A poll never sets `AV` without `DV` (R94). -/
theorem bigPollSnap_flagsLegal (map : Vector (Fin 16) 16) (ame : Bool) (rx : Frame) (old : Snap) :
    (bigPollSnap map ame rx old).flagsLegal = true := by
  cases hc : bigClass rx <;> simp [bigPollSnap, Snap.flagsLegal, hc]

/-- Every input event keeps `DV = 0, AV = 1` absent (R15). -/
theorem onInput_flagsLegal {e : Input} {s t : State} (hs : s.snap.flagsLegal = true) (h : onInput e s = .next t) :
    t.snap.flagsLegal = true := by
  rcases onInput_snap h with hsnap | ⟨_, -, -, -, -, -, hsnap⟩ | ⟨-, -, hsnap⟩ <;> rw [hsnap]
  · exact hs
  · exact bigPollSnap_flagsLegal ..
  · rfl

theorem onInput_inv {e : Input} {s t : State} (hs : s.inv = true) (h : onInput e s = .next t) : t.inv = true := by
  obtain ⟨hseq, hflags, hwf, hcond⟩ := inv_iff.1 hs
  obtain ⟨cs, hcs, hnot⟩ := onInput_conditions h
  refine inv_iff.2 ⟨onInput_sequenced hseq h, onInput_flagsLegal hflags h, ?_, ?_⟩
  · rwa [onInput_params h]
  · simp [hcs, hcond, hnot]

/-! ### The statements -/

/-- Settles O36: a step waits, or its input event keeps each part of the invariant. -/
theorem stepKeepsTheInvariant : Obligations.StepKeepsTheInvariant := by
  intro s t hs h
  rcases step_cases h with ⟨-, rfl⟩ | ⟨e, rest, -, he⟩
  · exact hs
  · exact onInput_inv (s := { s with inbox := rest }) hs he

/-- Settles O39: the frame ROM is a function of the parameters, and no input event writes these. -/
theorem parametersAreConstant : Obligations.ParametersAreConstant := by
  intro s t h
  have hp : t.params = s.params := by
    rcases step_cases h with ⟨-, rfl⟩ | ⟨e, rest, -, he⟩
    · rfl
    · exact onInput_params (s := { s with inbox := rest }) he
  exact ⟨hp, fun fid => by rw [hp]⟩

/-- Settles O40, from the writers of `AME`. -/
theorem onlyAValidatedHandshakeChangesAnalogMode : Obligations.OnlyAValidatedHandshakeChangesAnalogMode := by
  intro s t h hne
  rcases step_cases h with ⟨-, rfl⟩ | ⟨e, rest, hi, he⟩
  · exact absurd rfl hne
  · rcases onInput_ame he with hsame | ⟨rx, rfl, hlast⟩ | ⟨rfl, hreset⟩
    · exact absurd hsame hne
    · exact .inl ⟨rx, rest, hi, hlast⟩
    · exact .inr ⟨rest, hi, hreset⟩

/-- Settles O41, from the writers of `CONN`. -/
theorem onlyConnectAndDisconnectChangeConnected : Obligations.OnlyConnectAndDisconnectChangeConnected := by
  intro s t h hne
  rcases step_cases h with ⟨-, rfl⟩ | ⟨e, rest, hi, he⟩
  · exact absurd rfl hne
  · rcases onInput_conn he with hsame | ⟨w, rfl, hcmd⟩ | ⟨r, rfl, hprobe⟩ | ⟨rfl, hreset⟩
    · exact absurd hsame hne
    · exact .inl ⟨w, rest, hi, hcmd⟩
    · exact .inr (.inl ⟨r, rest, hi, hprobe⟩)
    · exact .inr (.inr ⟨rest, hi, hreset⟩)

/-- Settles O42, from the writers of `SNAP`. -/
theorem onlyPollChangesTheSnapshot : Obligations.OnlyPollChangesTheSnapshot := by
  intro s t h hne
  rcases step_cases h with ⟨-, rfl⟩ | ⟨e, rest, hi, he⟩
  · exact absurd rfl hne
  · rcases onInput_snap he with hsame | ⟨r, rfl, hx, ho, hidle, htrace, -⟩ | ⟨rfl, hf, -⟩
    · exact absurd hsame hne
    · exact .inl ⟨r, rest, hi, hx, ho, hidle, htrace⟩
    · exact .inr ⟨rest, hi, hf⟩

/-- Settles O32, by the reset state's definition. -/
theorem resetFlagsAndModeAreFalse : Obligations.ResetFlagsAndModeAreFalse := ⟨rfl, rfl, rfl⟩

/-- Settles O33: the two commands are run from the reset state. -/
theorem resetIsIdleAndDisconnected : Obligations.ResetIsIdleAndDisconnected :=
  ⟨rfl, rfl, rfl, rfl, ⟨_, rfl, rfl⟩, ⟨_, rfl, rfl⟩⟩

/-- Settles O34: idle at step 0, flags and records empty, and the default `ANALOG_MAP` is a bijection. -/
theorem resetMeetsTheInvariants : Obligations.ResetMeetsTheInvariants := by
  have hwf : Params.default.wf = true := by decide
  exact ⟨inv_iff.2 ⟨(sequenced_of_idle rfl).2 rfl, rfl, hwf, List.not_mem_nil⟩, rfl, rfl⟩

end Sys2Proof.Machine

/-! SUPPORT. The transport's view (20_memory.md): what an answer decodes to and what one without usable bytes does, that
no read leaves the bytes received, the alternation of requests and responses, and that the transport's configuration is
never read. -/

namespace Sys2Proof.Machine

/-! ### Decoding an answer -/

theorem bytes_ok_of_length_ne {n : Nat} {rx : Frame} (h : rx.length ≠ n) :
    (Answer.ok rx).bytes n = .error (.wrongLength rx.length) := if_neg h

theorem decodeRx_of_bytes_error {n : Nat} {r : Answer} {e : DecodeError} (h : r.bytes n = .error e) :
    decodeRx n r = .error e := by
  rw [decodeRx, h]

theorem decodeRx_ok_of_getElem? {n : Nat} {rx : Frame} {d : Byte} (hlen : rx.length = n) (hd : rx[1]? = some d) :
    decodeRx n (.ok rx) = .ok ((classify d).instr rx) := by
  rw [decodeRx, bytes_eq_ok.2 ⟨rfl, hlen⟩]
  simp only [classifyFrame, hd]

/-- Settles O5: an answer without bytes stops before the classification; one of the length asked for has a byte at
offset 1. -/
theorem answersDecodeByLengthThenDiscriminator : Obligations.AnswersDecodeByLengthThenDiscriminator := by
  intro n hn
  refine ⟨⟨_, decodeRx_of_bytes_error rfl⟩, fun rx => ⟨fun hne => ?_, fun hlen => ?_⟩⟩
  · exact ⟨_, decodeRx_of_bytes_error (bytes_ok_of_length_ne hne)⟩
  · have hd : rx[1]? = some rx[1] := List.getElem?_eq_getElem (by omega)
    exact ⟨_, hd, decodeRx_ok_of_getElem? hlen hd⟩

/-! ### The frame ROM and the sending of a frame -/

theorem fid_len_cases (fid : Fid) : fid.len = 5 ∨ fid.len = 9 ∨ fid.len = 21 := by
  cases fid <;> decide

/-- Offsets 0 and 2 are fixed in every frame that no parameter replaces (R63). -/
theorem rom_header (p : Params) {fid : Fid} (h : fid ≠ .setDigital) :
    (rom p fid)[0]? = some 0x01#8 ∧ (rom p fid)[2]? = some 0x00#8 := by
  cases fid with
  | setDigital => exact absurd rfl h
  | pollD | pollA | enterCfg | setAnalog | enableMotor | cfgPressure | exitCfg => exact ⟨rfl, rfl⟩

/-- Settles O6: the lengths of the frames, and their bytes as the ROM lists them. -/
theorem romFramesHaveTheirShape : Obligations.RomFramesHaveTheirShape := fun p fid =>
  ⟨rom_length p fid, fid_len_cases fid, rom_header p, rfl⟩

theorem sendFrame_of_xfer {s : State} (fid : Fid) (hx : s.fsm = .xfer) :
    sendFrame fid s = .refused .exchangeOutstanding := if_pos hx

theorem sendFrame_of_not_selected {fid : Fid} {s : State} (hx : s.fsm ≠ .xfer) (hs : s.selected ≠ some fid) :
    sendFrame fid s = .refused .frameNotSelected := by
  rw [sendFrame, if_neg hx, if_neg hs]

/-- Settles O17: a frame's instruction is its sending, which refuses in this order. -/
theorem otherFramesAreNotSent : Obligations.OtherFramesAreNotSent := by
  intro s fid
  rw [exec_frame]
  exact ⟨sendFrame_of_xfer fid, sendFrame_of_not_selected⟩

/-! ### The answer to a handshake -/

theorem complete_handshake {s : State} (ho : s.curOp = .enableAnalog ∨ s.curOp = .disableAnalog) (cls : RespClass)
    (r : Answer) (rx : Option Frame) : complete cls r rx s = completeHandshake r s := by
  rcases ho with ho | ho <;> rw [complete, ho]

theorem onXferResp_handshake {s : State} (hx : s.fsm = .xfer) (ho : s.curOp = .enableAnalog ∨ s.curOp = .disableAnalog)
    (r : Answer) : onXferResp r s = completeHandshake r (s.emit (.xferResp r)) := by
  rcases ho with ho | ho <;> rw [onXferResp, if_pos hx, ho]

/-- Settles O25: the response instruction and the event both hand the string to the handshake. -/
theorem handshakeAnswersAreNotClassified : Obligations.HandshakeAnswersAreNotClassified := by
  intro s cls rx hx ho
  calc exec (cls.instr rx) s
      = complete cls (.ok rx) _ (s.emit (.xferResp (.ok rx))) := by rw [exec_resp, receive, if_pos hx]
    _ = completeHandshake (.ok rx) (s.emit (.xferResp (.ok rx))) :=
      complete_handshake (s := s.emit (.xferResp (.ok rx))) ho ..
    _ = step (s.offer (.xferResp (.ok rx))) := (onXferResp_handshake hx ho _).symm

/-! ### An answer without usable bytes -/

theorem xferLen_handshake {s : State} {fid : Fid} (ho : s.curOp = .enableAnalog ∨ s.curOp = .disableAnalog)
    (h : (handshakeSeq s.curOp)[s.stepIx.toNat]? = some fid) : s.xferLen = fid.len := by
  rcases ho with ho | ho <;> rw [ho] at h <;> simp only [State.xferLen, State.selected, ho, h]

/-- A handshake's answer without bytes of the length asked for counts as `Fail` (R41). -/
theorem completeHandshake_of_bytes_error {r : Answer} {e : DecodeError} {s : State}
    (ho : s.curOp = .enableAnalog ∨ s.curOp = .disableAnalog) (hb : r.bytes s.xferLen = .error e) :
    completeHandshake r s = completeHandshake .fail s := by
  unfold completeHandshake
  cases hfid : (handshakeSeq s.curOp)[s.stepIx.toNat]? with
  | none => rfl
  | some fid =>
    rw [xferLen_handshake ho hfid] at hb
    have hfail : Answer.fail.bytes fid.len = .error .transportFail := rfl
    simp only [hb, hfail]

/-- In every operation an answer without bytes of the length asked for completes the exchange as `Fail` does; only the
response that is recorded is its own (R41, R139). -/
theorem onXferResp_of_bytes_error {r : Answer} {e : DecodeError} {s : State} (hx : s.fsm = .xfer)
    (hb : r.bytes s.xferLen = .error e) :
    onXferResp r s = complete .unexpected .fail none (s.emit (.xferResp r)) := by
  have hpoll : onPollResp r s = complete .unexpected r none (s.emit (.xferResp r)) := by
    rw [onPollResp, decodeRx_of_bytes_error hb]
  have hhandshake (ho : s.curOp = .enableAnalog ∨ s.curOp = .disableAnalog) :
      onXferResp r s = complete .unexpected .fail none (s.emit (.xferResp r)) := by
    rw [onXferResp_handshake hx ho, complete_handshake (s := s.emit (.xferResp r)) ho]
    exact completeHandshake_of_bytes_error (s := s.emit (.xferResp r)) ho hb
  cases ho : s.curOp with
  | poll | connect => simp only [onXferResp, if_pos hx, ho, hpoll, complete, State.emit_curOp]
  | enableAnalog => exact hhandshake (.inl ho)
  | disableAnalog => exact hhandshake (.inr ho)
  | disconnect | isConnected => simp only [onXferResp, if_pos hx, ho, complete, State.emit_curOp]

/-- The state with the recorded responses removed from its trace. -/
def State.forgetResponses (s : State) : State := { s with trace := s.trace.filter (!·.isResp) }

@[simp] theorem State.forgetResponses_emit_xferResp (s : State) (r : Answer) :
    (s.emit (.xferResp r)).forgetResponses = s.forgetResponses := by
  simp [State.forgetResponses, State.emit, Event.isResp]

theorem completeHandshake_fail_forgetResponses (s : State) :
    mapNext State.forgetResponses (completeHandshake .fail s.forgetResponses) =
      mapNext State.forgetResponses (completeHandshake .fail s) := by
  have hop : s.forgetResponses.curOp = s.curOp := rfl
  have hix : s.forgetResponses.stepIx = s.stepIx := rfl
  rw [completeHandshake, completeHandshake, hop, hix]
  cases (handshakeSeq s.curOp)[s.stepIx.toNat]? with
  | none => rfl
  | some fid => simp [Answer.bytes, endHandshake, State.forgetResponses, State.finish, State.signal]

/-- The completion by `Fail` reads no recorded response. -/
theorem complete_fail_forgetResponses (s : State) :
    mapNext State.forgetResponses (complete .unexpected .fail none s.forgetResponses) =
      mapNext State.forgetResponses (complete .unexpected .fail none s) := by
  have hop : s.forgetResponses.curOp = s.curOp := rfl
  rw [complete, complete, hop]
  cases s.curOp with
  | poll => simp [completePoll, State.forgetResponses, State.finish, State.signal]
  | connect => simp [completeProbe, State.forgetResponses, State.finish, State.signal]
  | enableAnalog | disableAnalog => exact completeHandshake_fail_forgetResponses s
  | disconnect | isConnected => rfl

/-- With the recorded responses removed, all answers without bytes of the length asked for end alike. -/
theorem onXferResp_forgetResponses_of_bytes_error {r : Answer} {e : DecodeError} {s : State} (hx : s.fsm = .xfer)
    (hb : r.bytes s.xferLen = .error e) :
    mapNext State.forgetResponses (onXferResp r s) =
      mapNext State.forgetResponses (complete .unexpected .fail none s.forgetResponses) := by
  rw [onXferResp_of_bytes_error hx hb, ← complete_fail_forgetResponses, State.forgetResponses_emit_xferResp]

/-- Settles O22: neither answer has bytes of the length asked for. -/
theorem wrongLengthActsAsFail : Obligations.WrongLengthActsAsFail := by
  intro s rx hx hne
  exact (onXferResp_forgetResponses_of_bytes_error hx (bytes_ok_of_length_ne hne)).trans
    (onXferResp_forgetResponses_of_bytes_error (r := .fail) hx rfl).symm

/-! ### No fault -/

theorem whenIdle_ne_fault {s : State} {k : Host.Outcome State Fault Refusal} {f : Fault} (hk : k ≠ .fault f) :
    whenIdle s k ≠ .fault f := by
  unfold whenIdle
  split
  · exact hk
  · simp

theorem startHandshake_ne_fault (op : Op) (a b : Byte) (s : State) (f : Fault) : startHandshake op a b s ≠ .fault f :=
  whenIdle_ne_fault (sendFrame_ne_fault _ _ _)

theorem execConnect_ne_fault (a b : Byte) (s : State) (f : Fault) : execConnect a b s ≠ .fault f := by
  refine whenIdle_ne_fault ?_
  dsimp only
  split
  · exact sendFrame_ne_fault _ _ _
  · simp

/-- The completion of an exchange by bytes of the length asked for, or by none, reads within them (R41). -/
theorem complete_ne_fault (cls : RespClass) (r : Answer) {rx : Option Frame} {s : State} (f : Fault)
    (h : ∀ bytes, rx = some bytes → bytes.length = s.xferLen) : complete cls r rx s ≠ .fault f := by
  cases ho : s.curOp with
  | poll =>
    obtain ⟨snap, cs, hnext⟩ := completePoll_next cls rx s (xferLen_poll ho ▸ h)
    simp [complete_poll ho, hnext]
  | connect =>
    obtain ⟨ok, cs, hnext⟩ := completeProbe_next cls rx s
    simp [complete_connect ho, hnext]
  | enableAnalog => rw [complete_handshake (.inl ho)]; exact completeHandshake_ne_fault _ _ _
  | disableAnalog => rw [complete_handshake (.inr ho)]; exact completeHandshake_ne_fault _ _ _
  | disconnect | isConnected => simp [complete, ho]

theorem receive_ne_fault (cls : RespClass) (rx : Frame) (s : State) (f : Fault) : receive cls rx s ≠ .fault f := by
  unfold receive
  split
  · refine complete_ne_fault _ _ _ fun bytes hbytes => ?_
    split at hbytes
    · cases hbytes; assumption
    · cases hbytes
  · simp

theorem exec_ne_fault (i : Instr) (s : State) (f : Fault) : exec i s ≠ .fault f := by
  cases i with
  | connect a b => exact execConnect_ne_fault _ _ _ _
  | disconnect a b | isConnected a b => exact whenIdle_ne_fault (by simp)
  | poll a b | poll0 => exact whenIdle_ne_fault (sendFrame_ne_fault _ _ _)
  | enableAnalog a b | disableAnalog a b => exact startHandshake_ne_fault _ _ _ _ _
  | reserved odd a b => simp [exec, execReserved]
  | fPollD | fPollA | fEnterCfg | fSetAnalog | fEnableMotor | fCfgPressure | fExitCfg | fSetDigital =>
    exact sendFrame_ne_fault _ _ _
  | respDigital rx | respAnalog rx | respUnexpected rx => exact receive_ne_fault _ _ _ _

theorem onPollResp_ne_fault (r : Answer) (s : State) (f : Fault) : onPollResp r s ≠ .fault f := by
  unfold onPollResp
  split
  · exact exec_ne_fault _ _ _
  · exact complete_ne_fault _ _ _ (by simp)

theorem onXferResp_ne_fault (r : Answer) (s : State) (f : Fault) : onXferResp r s ≠ .fault f := by
  unfold onXferResp
  split
  · cases s.curOp with
    | poll | connect => exact onPollResp_ne_fault _ _ _
    | enableAnalog | disableAnalog => exact completeHandshake_ne_fault _ _ _
    | disconnect | isConnected => simp
  · simp

theorem onDelayDone_ne_fault (s : State) (f : Fault) : onDelayDone s ≠ .fault f := by
  unfold onDelayDone
  split
  · dsimp only
    split
    · exact exec_ne_fault _ _ _
    · simp
  · simp

theorem onReset_ne_fault (s : State) (f : Fault) : onReset s ≠ .fault f := by
  unfold onReset
  split <;> simp

theorem onInput_ne_fault (e : Input) (s : State) (f : Fault) : onInput e s ≠ .fault f := by
  cases e with
  | cmd w => exact exec_ne_fault _ _ _
  | xferResp r => exact onXferResp_ne_fault _ _ _
  | delayDone => exact onDelayDone_ne_fault _ _
  | reset => exact onReset_ne_fault _ _

/-- Settles O31, from the instructions and the input events. -/
theorem nothingFaults : Obligations.NothingFaults := by
  refine fun s f => ⟨fun i => exec_ne_fault i s f, ?_⟩
  cases hi : s.inbox with
  | nil => simp [step_of_inbox_nil hi]
  | cons e rest => rw [step_of_inbox_cons hi]; exact onInput_ne_fault _ _ _

/-! ### Requests and responses alternate -/

/-- A walk along a trace goes on where the walk along its first part ends. -/
theorem unanswered_append (b : Bool) (es es' : List Event) :
    unanswered b (es ++ es') = (unanswered b es).bind (unanswered · es') := by
  fun_induction unanswered b es <;> simp_all [unanswered]

theorem alternating_iff {s : State} : s.alternating = true ↔ unanswered false s.trace = some (decide (s.fsm = .xfer)) := by
  simp [State.alternating]

/-- A result, a request, or a response and the result or delay after it: the walk ends in the state's `fsm`. -/
theorem onInput_alternating {e : Input} {s t : State} (hs : s.alternating = true) (h : onInput e s = .next t) :
    t.alternating = true := by
  rw [alternating_iff] at hs ⊢
  rcases onInput_trace h with ⟨ht, hf⟩ | ⟨hf, htf, v, ht⟩ | ⟨hf, htf, fid, ht⟩ | ⟨hf, htf, r, e', ⟨hreq, hresp⟩, ht⟩
  · rw [ht, hf, hs]
  · simp [ht, unanswered_append, hs, hf, htf, unanswered]
  · simp [ht, unanswered_append, hs, hf, htf, unanswered]
  · cases e' with
    | delay d | ret v => simp [ht, unanswered_append, hs, hf, htf, unanswered]
    | xferReq tx n => cases hreq
    | xferResp r' => cases hresp

theorem onInput_trace_prefix {e : Input} {s t : State} (h : onInput e s = .next t) : s.trace <+: t.trace := by
  rcases onInput_trace h with ⟨ht, -⟩ | ⟨-, -, v, ht⟩ | ⟨-, -, fid, ht⟩ | ⟨-, -, r, e', -, ht⟩ 
  · rw [ht]
  · exact ht ▸ List.prefix_append ..
  · exact ht ▸ List.prefix_append ..
  · exact ht ▸ List.prefix_append ..

/-- Settles O37: a step waits, or its input event extends the trace and keeps the alternation. -/
theorem stepKeepsRequestsAnswered : Obligations.StepKeepsRequestsAnswered := by
  intro s t hs h
  rcases step_cases h with ⟨-, rfl⟩ | ⟨e, rest, -, he⟩
  · exact ⟨hs, List.prefix_rfl⟩
  · exact ⟨onInput_alternating (s := { s with inbox := rest }) hs he,
      onInput_trace_prefix (s := { s with inbox := rest }) he⟩

/-! ### The transport's configuration -/

section
variable {mode freq : Nat}

@[simp] theorem State.withTransport_fsm (s : State) : (s.withTransport mode freq).fsm = s.fsm := rfl
@[simp] theorem State.withTransport_curOp (s : State) : (s.withTransport mode freq).curOp = s.curOp := rfl
@[simp] theorem State.withTransport_stepIx (s : State) : (s.withTransport mode freq).stepIx = s.stepIx := rfl
@[simp] theorem State.withTransport_selected (s : State) : (s.withTransport mode freq).selected = s.selected := rfl
@[simp] theorem State.withTransport_xferLen (s : State) : (s.withTransport mode freq).xferLen = s.xferLen := rfl
@[simp] theorem State.withTransport_validator (s : State) :
    (s.withTransport mode freq).params.validator = s.params.validator := rfl

theorem rom_withTransport (s : State) (fid : Fid) : rom (s.withTransport mode freq).params fid = rom s.params fid := by
  cases fid <;> rfl

theorem whenIdle_withTransport {s : State} {k k' : Host.Outcome State Fault Refusal}
    (h : k' = mapNext (·.withTransport mode freq) k) :
    whenIdle (s.withTransport mode freq) k' = mapNext (·.withTransport mode freq) (whenIdle s k) := by
  rw [whenIdle, whenIdle, State.withTransport_fsm, h]
  split <;> rfl

theorem sendFrame_withTransport (fid : Fid) (s : State) :
    sendFrame fid (s.withTransport mode freq) = mapNext (·.withTransport mode freq) (sendFrame fid s) := by
  rw [sendFrame, sendFrame, State.withTransport_fsm, State.withTransport_selected, rom_withTransport]
  split
  · rfl
  · split <;> rfl

theorem execConnect_withTransport (a b : Byte) (s : State) :
    execConnect a b (s.withTransport mode freq) = mapNext (·.withTransport mode freq) (execConnect a b s) := by
  refine whenIdle_withTransport ?_
  have hp : ((s.withTransport mode freq).accept .connect a b).params.connectProbe =
      (s.accept .connect a b).params.connectProbe := rfl
  dsimp only
  rw [hp]
  split
  · exact sendFrame_withTransport _ (s.accept .connect a b)
  · rfl

theorem completePoll_withTransport (cls : RespClass) (rx : Option Frame) (s : State) :
    completePoll cls rx (s.withTransport mode freq) =
      mapNext (·.withTransport mode freq) (completePoll cls rx s) := by
  cases rx with
  | none => rfl
  | some rx =>
    have hsnap : pollSnap (s.withTransport mode freq).params.analogMap (s.withTransport mode freq).ame cls rx
        (s.withTransport mode freq).snap = pollSnap s.params.analogMap s.ame cls rx s.snap := rfl
    rw [completePoll, completePoll, hsnap]
    cases pollSnap s.params.analogMap s.ame cls rx s.snap with
    | error f => rfl
    | ok snap => cases cls <;> rfl

theorem completeProbe_withTransport (cls : RespClass) (rx : Option Frame) (s : State) :
    completeProbe cls rx (s.withTransport mode freq) =
      mapNext (·.withTransport mode freq) (completeProbe cls rx s) := by
  cases rx with
  | none => rfl
  | some rx => cases cls <;> rfl

theorem completeHandshake_withTransport (r : Answer) (s : State) :
    completeHandshake r (s.withTransport mode freq) =
      mapNext (·.withTransport mode freq) (completeHandshake r s) := by
  rw [completeHandshake, completeHandshake, State.withTransport_curOp, State.withTransport_stepIx,
    State.withTransport_validator]
  cases (handshakeSeq s.curOp)[s.stepIx.toNat]? with
  | none => rfl
  | some fid =>
    dsimp only
    cases r.bytes fid.len with
    | error e => rfl
    | ok rx =>
      dsimp only
      split
      · rfl
      · split <;> rfl

theorem complete_withTransport (cls : RespClass) (r : Answer) (rx : Option Frame) (s : State) :
    complete cls r rx (s.withTransport mode freq) = mapNext (·.withTransport mode freq) (complete cls r rx s) := by
  rw [complete, complete, State.withTransport_curOp]
  cases s.curOp with
  | poll => exact completePoll_withTransport ..
  | connect => exact completeProbe_withTransport ..
  | enableAnalog | disableAnalog => exact completeHandshake_withTransport ..
  | disconnect | isConnected => rfl

theorem receive_withTransport (cls : RespClass) (rx : Frame) (s : State) :
    receive cls rx (s.withTransport mode freq) = mapNext (·.withTransport mode freq) (receive cls rx s) := by
  rw [receive, receive, State.withTransport_fsm, State.withTransport_xferLen]
  split
  · exact complete_withTransport _ _ _ (s.emit (.xferResp (.ok rx)))
  · rfl

theorem exec_withTransport (i : Instr) (s : State) :
    exec i (s.withTransport mode freq) = mapNext (·.withTransport mode freq) (exec i s) := by
  cases i with
  | connect a b => exact execConnect_withTransport ..
  | disconnect a b | isConnected a b => exact whenIdle_withTransport rfl
  | poll a b => exact whenIdle_withTransport (sendFrame_withTransport _ (s.accept .poll a b))
  | poll0 => exact whenIdle_withTransport (sendFrame_withTransport _ (s.accept .poll 0#8 0#8))
  | enableAnalog a b =>
    exact whenIdle_withTransport
      (sendFrame_withTransport _ { s.accept .enableAnalog a b with stepIx := 0#3 })
  | disableAnalog a b =>
    exact whenIdle_withTransport
      (sendFrame_withTransport _ { s.accept .disableAnalog a b with stepIx := 0#3 })
  | reserved odd a b => rfl
  | fPollD | fPollA | fEnterCfg | fSetAnalog | fEnableMotor | fCfgPressure | fExitCfg | fSetDigital =>
    exact sendFrame_withTransport ..
  | respDigital rx | respAnalog rx | respUnexpected rx => exact receive_withTransport ..

theorem onPollResp_withTransport (r : Answer) (s : State) :
    onPollResp r (s.withTransport mode freq) = mapNext (·.withTransport mode freq) (onPollResp r s) := by
  rw [onPollResp, onPollResp, State.withTransport_xferLen]
  cases decodeRx s.xferLen r with
  | ok i => exact exec_withTransport ..
  | error e => exact complete_withTransport _ _ _ (s.emit (.xferResp r))

theorem onXferResp_withTransport (r : Answer) (s : State) :
    onXferResp r (s.withTransport mode freq) = mapNext (·.withTransport mode freq) (onXferResp r s) := by
  rw [onXferResp, onXferResp, State.withTransport_fsm, State.withTransport_curOp]
  split
  · cases s.curOp with
    | poll | connect => exact onPollResp_withTransport ..
    | enableAnalog | disableAnalog => exact completeHandshake_withTransport _ (s.emit (.xferResp r))
    | disconnect | isConnected => rfl
  · rfl

theorem onDelayDone_withTransport (s : State) :
    onDelayDone (s.withTransport mode freq) = mapNext (·.withTransport mode freq) (onDelayDone s) := by
  rw [onDelayDone, onDelayDone, State.withTransport_fsm]
  split
  · simp only [State.withTransport_curOp, State.withTransport_stepIx]
    cases (handshakeSeq s.curOp)[(s.stepIx + 1#3).toNat]? with
    | some fid => exact exec_withTransport _ { s with stepIx := s.stepIx + 1#3 }
    | none => rfl
  · rfl

theorem onReset_withTransport (s : State) :
    onReset (s.withTransport mode freq) = mapNext (·.withTransport mode freq) (onReset s) := by
  rw [onReset, onReset, State.withTransport_fsm]
  split <;> rfl

theorem onInput_withTransport (e : Input) (s : State) :
    onInput e (s.withTransport mode freq) = mapNext (·.withTransport mode freq) (onInput e s) := by
  cases e with
  | cmd w => exact exec_withTransport ..
  | xferResp r => exact onXferResp_withTransport ..
  | delayDone => exact onDelayDone_withTransport ..
  | reset => exact onReset_withTransport ..

end

/-- Settles O58: every input event commutes with another transport configuration. -/
theorem transportConfigurationIsUnread : Obligations.TransportConfigurationIsUnread := by
  intro s mode freq
  cases hi : s.inbox with
  | nil => rw [step_of_inbox_nil hi, step_of_inbox_nil (s := s.withTransport mode freq) hi, mapNext_next]
  | cons e rest =>
    rw [step_of_inbox_cons hi, step_of_inbox_cons (s := s.withTransport mode freq) hi]
    exact onInput_withTransport e { s with inbox := rest }

end Sys2Proof.Machine

/-! SUPPORT. The encodings (30_encoding.md): the decoder and the encoder invert each other, one lemma per format; the
button word; the transmit alphabet; the reserved opcodes. -/

namespace Sys2Proof.Machine

/-! ### Host words -/

/-- No bit of a host word lies outside its three fields (R57). -/
theorem h19Word_fields (w : HostWord) : h19Word (h19Op w) (h19A w) (h19B w) = w := by
  refine BitVec.eq_of_getLsbD_eq fun i hi => ?_
  simp only [h19Word, h19Op, h19A, h19B, BitVec.getLsbD_append, BitVec.getLsbD_extractLsb']
  split_ifs with hb ha
  · simp [hb]
  · simp [ha, show 8 + (i - 8) = i by omega]
  · simp [show 16 + (i - 8 - 8) = i by omega, show i - 8 - 8 < 3 by omega]

/-- A host word is the word of an operation or of a reserved opcode (R58, R70). -/
theorem exists_eq_h19Word (w : HostWord) :
    (∃ (op : Op) (a b : Byte), w = h19Word op.code a b) ∨
    ∃ (odd : Bool) (a b : Byte), w = h19Word (if odd then 7#3 else 6#3) a b := by
  have hreserved : ∀ v : BitVec 3, 6 ≤ v.toNat → v = 6#3 ∨ v = 7#3 := by decide
  have hw := (h19Word_fields w).symm
  rcases h19Op_cases w with ⟨op, ho, -⟩ | ⟨h6, -⟩
  · exact .inl ⟨op, _, _, ho ▸ hw⟩
  · rcases hreserved _ h6 with ho | ho
    · exact .inr ⟨false, _, _, ho ▸ hw⟩
    · exact .inr ⟨true, _, _, ho ▸ hw⟩

theorem decodeH19_reservedWord (odd : Bool) (a b : Byte) :
    decodeH19 (h19Word (if odd then 7#3 else 6#3) a b) = .reserved odd a b := by
  rw [decodeH19, h19Op_h19Word, h19A_h19Word, h19B_h19Word]
  cases odd <;> rfl

theorem encode_op (p : Params) (op : Op) (a b : Byte) : encode p (op.instr a b) = .h19 (h19Word op.code a b) := by
  cases op <;> rfl

theorem decode_opWord (p : Params) (op : Op) (a b : Byte) :
    decode p (.h19 (h19Word op.code a b)) = .ok (op.instr a b) :=
  congrArg Except.ok (decodeH19_opWord op a b)

/-! ### Transmitted frames -/

theorem fid_mem_all (fid : Fid) : fid ∈ Fid.all := by cases fid <;> decide

theorem len_eq_of_rom_eq {p : Params} {f g : Fid} (h : rom p f = rom p g) : f.len = g.len := by
  rw [← rom_length p f, h, rom_length]

/-- The command byte, at offset 1, depends on no parameter but `CMD_SET_DIGITAL` (R62). -/
theorem rom_command (p : Params) {fid : Fid} (h : fid ≠ .setDigital) :
    (rom p fid)[1]? = (rom Params.default fid)[1]? := by
  cases fid with
  | setDigital => exact absurd rfl h
  | pollD | pollA | enterCfg | setAnalog | enableMotor | cfgPressure | exitCfg => rfl

/-- Length and command byte tell the seven frames apart that no parameter replaces. -/
theorem eq_of_len_of_command {f g : Fid} (hf : f ≠ .setDigital) (hg : g ≠ .setDigital) (hlen : f.len = g.len)
    (hcmd : (rom Params.default f)[1]? = (rom Params.default g)[1]?) : f = g := by
  have key : ∀ f ∈ Fid.all, ∀ g ∈ Fid.all, f ≠ .setDigital → g ≠ .setDigital → f.len = g.len →
      (rom Params.default f)[1]? = (rom Params.default g)[1]? → f = g := by decide
  exact key f (fid_mem_all f) g (fid_mem_all g) hf hg hlen hcmd

/-- `CMD_SET_DIGITAL` is no other frame: the premise excludes those of its length, the length the others. -/
theorem rom_ne_setDigital {p : Params} (hp : p.framesDistinct = true) {fid : Fid} (h : fid ≠ .setDigital) :
    rom p fid ≠ rom p .setDigital := by
  have hnine : ∀ f ∈ Fid.all, f ≠ .setDigital → f.len = 9 →
      f ∈ [Fid.setAnalog, .enableMotor, .cfgPressure, .exitCfg] := by decide
  intro heq
  have hlen : fid.len = 9 := len_eq_of_rom_eq heq
  have hne := List.all_eq_true.1 hp fid (hnine fid (fid_mem_all fid) h hlen)
  exact bne_iff_ne.1 hne heq

theorem rom_injective {p : Params} (hp : p.framesDistinct = true) : Function.Injective (rom p) := by
  intro f g heq
  by_cases hf : f = .setDigital
  · subst hf
    by_contra hg
    exact rom_ne_setDigital hp (Ne.symm hg) heq.symm
  · by_cases hg : g = .setDigital
    · subst hg
      exact absurd heq (rom_ne_setDigital hp hf)
    · refine eq_of_len_of_command hf hg (len_eq_of_rom_eq heq) ?_
      rw [← rom_command p hf, ← rom_command p hg, heq]

/-- A frame's ROM bytes decode to the instruction that sends it (R62, R72). -/
theorem decodeTx_rom {p : Params} (hp : p.framesDistinct = true) (fid : Fid) :
    decodeTx p (rom p fid) = .ok fid.instr := by
  have hfind : Fid.all.find? (fun f => rom p f == rom p fid) = some fid := by
    have hbeq : ∀ f, (rom p f == rom p fid) = (f == fid) := fun f => by
      rw [Bool.eq_iff_iff, beq_iff_eq, beq_iff_eq, (rom_injective hp).eq_iff]
    simp only [hbeq]
    cases fid <;> rfl
  rw [decodeTx, hfind]

/-! ### Received frames -/

theorem wfRx_iff {cls : RespClass} {rx : Frame} :
    wfRx cls rx = true ↔ (rx.length = lenDigital ∨ rx.length = lenAnalog) ∧ ∃ d, rx[1]? = some d ∧ classify d = cls := by
  simp [wfRx]

/-- A well-formed response decodes to its own class (R65, R93). -/
theorem decode_rx_of_wfRx (p : Params) {cls : RespClass} {rx : Frame} (h : wfRx cls rx = true) :
    decode p (.rx rx) = .ok (cls.instr rx) := by
  obtain ⟨hlen, d, hd, rfl⟩ := wfRx_iff.1 h
  simp only [decode, if_pos hlen, classifyFrame, hd]

/-! ### The round trips -/

/-- Settles O1: a host word by its fields, a frame by the injectivity of the ROM, a response by its discriminator. -/
theorem decodeOfEncodeIsTheInstruction : Obligations.DecodeOfEncodeIsTheInstruction := by
  intro p i hp hwf
  cases i with
  | connect a b => exact decode_opWord p .connect a b
  | disconnect a b => exact decode_opWord p .disconnect a b
  | isConnected a b => exact decode_opWord p .isConnected a b
  | poll a b => exact decode_opWord p .poll a b
  | enableAnalog a b => exact decode_opWord p .enableAnalog a b
  | disableAnalog a b => exact decode_opWord p .disableAnalog a b
  | poll0 => exact decode_opWord p .poll 0#8 0#8
  | reserved odd a b => exact congrArg Except.ok (decodeH19_reservedWord odd a b)
  | fPollD => exact decodeTx_rom hp .pollD
  | fPollA => exact decodeTx_rom hp .pollA
  | fEnterCfg => exact decodeTx_rom hp .enterCfg
  | fSetAnalog => exact decodeTx_rom hp .setAnalog
  | fEnableMotor => exact decodeTx_rom hp .enableMotor
  | fCfgPressure => exact decodeTx_rom hp .cfgPressure
  | fExitCfg => exact decodeTx_rom hp .exitCfg
  | fSetDigital => exact decodeTx_rom hp .setDigital
  | respDigital rx | respAnalog rx | respUnexpected rx => exact decode_rx_of_wfRx p hwf

/-- Settles O2: every host word is the word of an operation or of a reserved opcode, and each of these is given back. -/
theorem encodeOfDecodedHostWordIsTheWord : Obligations.EncodeOfDecodedHostWordIsTheWord := by
  intro p w
  rcases exists_eq_h19Word w with ⟨op, a, b, rfl⟩ | ⟨odd, a, b, rfl⟩
  · rw [decodeH19_opWord, encode_op]
  · rw [decodeH19_reservedWord]; rfl

/-! ### The transmit alphabet -/

theorem legalReq_rom (p : Params) (fid : Fid) : Event.legalReq p (.xferReq (rom p fid) fid.len) = true :=
  List.any_eq_true.2 ⟨fid, fid_mem_all fid, by simp⟩

theorem legalReq_of_isReq_eq_false (p : Params) {e : Event} (h : e.isReq = false) : e.legalReq p = true := by
  cases e with
  | xferReq tx n => cases h
  | xferResp r | delay d | ret v => rfl

/-- The only requests an input event records are frames of the ROM (R72). -/
theorem onInput_trace_legalReq {e : Input} {s t : State} (h : onInput e s = .next t) :
    ∃ es, t.trace = s.trace ++ es ∧ es.all (Event.legalReq s.params) = true := by
  rcases onInput_trace h with ⟨ht, -⟩ | ⟨-, -, v, ht⟩ | ⟨-, -, fid, ht⟩ | ⟨-, -, r, e', ⟨hreq, -⟩, ht⟩
  · exact ⟨[], by simpa using ht, rfl⟩
  · exact ⟨_, ht, rfl⟩
  · exact ⟨_, ht, by simp [legalReq_rom]⟩
  · exact ⟨_, ht, by simp [legalReq_of_isReq_eq_false _ hreq, legalReq_of_isReq_eq_false _ (e := .xferResp r) rfl]⟩

theorem onInput_alphabetLegal {e : Input} {s t : State} (hs : s.alphabetLegal = true) (h : onInput e s = .next t) :
    t.alphabetLegal = true := by
  obtain ⟨es, ht, hes⟩ := onInput_trace_legalReq h
  rw [State.alphabetLegal, onInput_params h, ht, List.all_append, hes, Bool.and_true]
  exact hs

/-- Settles O38: a step waits, or its input event adds no request but one of the eight frames. -/
theorem stepKeepsTheTransmitAlphabet : Obligations.StepKeepsTheTransmitAlphabet := by
  intro s t hs h
  rcases step_cases h with ⟨-, rfl⟩ | ⟨e, rest, -, he⟩
  · exact hs
  · exact onInput_alphabetLegal (s := { s with inbox := rest }) hs he

/-! ### The button word -/

theorem buttonsOf_getElem?_low (x y : Byte) {b : Nat} (h : b < 8) : (buttonsOf x y)[b]? = some (!x.getLsbD b) := by
  rw [Vector.getElem?_eq_getElem (by omega)]
  exact congrArg some (buttonsOf_low x y ⟨b, by omega⟩ h)

theorem buttonsOf_getElem?_high (x y : Byte) {b : Nat} (h : b < 8) :
    (buttonsOf x y)[8 + b]? = some (!y.getLsbD b) := by
  have hhigh := buttonsOf_high x y ⟨8 + b, by omega⟩ (Nat.le_add_right 8 b)
  rw [Nat.add_sub_cancel_left] at hhigh
  rw [Vector.getElem?_eq_getElem (by omega)]
  exact congrArg some hhigh

theorem xor_ff_eq_not (x : Byte) : x ^^^ 0xFF#8 = ~~~x := BitVec.xor_allOnes

theorem buttonByteA_buttonsOf (x y : Byte) : buttonByteA (buttonsOf x y) = x ^^^ 0xFF#8 := by
  rw [xor_ff_eq_not]
  refine BitVec.eq_of_getLsbD_eq fun i hi => ?_
  rw [buttonByteA, getLsbD_packBits, buttonsOf_getElem?_low x y hi, BitVec.getLsbD_not]
  rfl

theorem buttonByteB_buttonsOf (x y : Byte) : buttonByteB (buttonsOf x y) = y ^^^ 0xFF#8 := by
  rw [xor_ff_eq_not]
  refine BitVec.eq_of_getLsbD_eq fun i hi => ?_
  rw [buttonByteB, getLsbD_packBits, buttonsOf_getElem?_high x y hi, BitVec.getLsbD_not]
  rfl

/-- The button word is its two bytes, `BTN[15..8]` above `BTN[7..0]` (R60, R107). -/
theorem buttonWord_eq_append (btn : Vector Bool 16) : buttonWord btn = buttonByteB btn ++ buttonByteA btn := by
  refine BitVec.eq_of_getLsbD_eq fun i hi => ?_
  simp only [BitVec.getLsbD_append, buttonWord, buttonByteA, buttonByteB, getLsbD_packBits]
  by_cases hlow : i < 8
  · simp [hlow, hi]
  · simp [hlow, hi, show i - 8 < 8 by omega, show 8 + (i - 8) = i by omega]

/-- Settles O54: bit by bit from the extractor, and the word from its two bytes. -/
theorem buttonWordIsTheComplement : Obligations.ButtonWordIsTheComplement := fun x y =>
  ⟨fun _ hb => ⟨buttonsOf_getElem?_low x y hb, buttonsOf_getElem?_high x y hb⟩,
    by rw [buttonWord_eq_append, buttonByteA_buttonsOf, buttonByteB_buttonsOf],
    buttonByteA_buttonsOf x y, buttonByteB_buttonsOf x y⟩

/-! ### Reserved opcodes -/

theorem decodeH19_of_reservedOp {w : HostWord} (h : 6 ≤ (h19Op w).toNat) :
    ∃ odd, decodeH19 w = .reserved odd (h19A w) (h19B w) := by
  rcases h19Op_cases w with ⟨op, ho, -⟩ | ⟨-, hd⟩
  · have hlt := op_code_lt op
    rw [← ho] at hlt
    omega
  · exact hd

/-- Settles O27: such a word decodes to the reserved instruction, which has no meaning in any state. -/
theorem reservedOpcodesAreRefused : Obligations.ReservedOpcodesAreRefused := by
  refine ⟨fun _ _ _ _ => rfl, fun s w hw => ?_⟩
  obtain ⟨odd, hd⟩ := decodeH19_of_reservedOp hw
  rw [step_offer, onInput, onCmd, hd]
  rfl

/-! ### Words, frames and lines written out in the spec -/

/-- Settles O3: each word is that of its operation, each frame that of its ROM entry, each response by its byte at
offset 1. -/
theorem specWordsDecode : Obligations.SpecWordsDecode :=
  have hp : Params.default.framesDistinct = true := by decide
  ⟨decodeH19_opWord .connect 0x00#8 0x00#8, decodeH19_opWord .disconnect 0x00#8 0x00#8,
    decodeH19_opWord .isConnected 0x00#8 0x00#8, decodeH19_opWord .poll 0x12#8 0x34#8,
    decodeH19_opWord .enableAnalog 0xAB#8 0xCD#8, decodeH19_opWord .disableAnalog 0x00#8 0x00#8,
    decodeH19_reservedWord false 0x00#8 0x00#8, decodeH19_reservedWord true 0xFF#8 0xFF#8,
    decodeTx_rom hp .pollD, decodeTx_rom hp .enterCfg, decodeTx_rom hp .setAnalog, decodeTx_rom hp .setDigital,
    decodeRx_ok_of_getElem? (d := 0x41#8) rfl rfl, decodeRx_ok_of_getElem? (d := 0x73#8) rfl rfl,
    decodeRx_ok_of_getElem? (d := 0x79#8) rfl rfl⟩

/-- Settles O4: the classifier compares the byte with the two discriminators and with nothing else. -/
theorem classifyByDiscriminator : Obligations.ClassifyByDiscriminator := fun _ => rfl

/-- Settles O18: the ROM at the default parameters. -/
theorem defaultFrameBytes : Obligations.DefaultFrameBytes := ⟨rfl, rfl, rfl, rfl, rfl, rfl, rfl, rfl⟩

/-- Settles O59: the assembler is run on each line. -/
theorem programLinesAssemble : Obligations.ProgramLinesAssemble := by
  unfold Obligations.ProgramLinesAssemble
  decide

end Sys2Proof.Machine

/-! SUPPORT. The wire commands (40_wire_commands.md): a frame row sends the ROM's bytes where the operation in progress
selects the frame. -/

namespace Sys2Proof.Machine

/-- Settles O16: a frame row is `sendFrame` of its frame, which sends where the frame is selected and no exchange is
unanswered. -/
theorem selectedFramesAreSent : Obligations.SelectedFramesAreSent := by
  intro s fid hfsm hsel
  rw [exec_frame]
  exact sendFrame_of_selected hfsm hsel

end Sys2Proof.Machine

/-! SUPPORT. The connection (41_connection.md): `IS_CONNECTED`, the answer to the probe of `CONNECT`, and that `CONN`
gates nothing: a poll and a handshake commute with any value of it. -/

namespace Sys2Proof.Machine

/-- Settles O12: in `IDLE` the command is accepted and finished in one step. -/
theorem isConnectedCompletes : Obligations.IsConnectedCompletes := by
  intro s a b hf
  rw [exec, execIsConnected, whenIdle_of_idle hf, hf]
  rfl

/-! ### The answer to the probe -/

theorem pollFrame_len (ame : Bool) : (pollFrame ame).len = if ame then 21 else 5 := by
  cases ame <;> rfl

/-- A string of the length asked for is accepted with its bytes (R41). -/
theorem receive_of_length {s : State} (hx : s.fsm = .xfer) (cls : RespClass) {rx : Frame}
    (hlen : rx.length = s.xferLen) :
    receive cls rx s = complete cls (.ok rx) (some rx) (s.emit (.xferResp (.ok rx))) := by
  rw [receive, if_pos hx, if_pos hlen]

/-- The probe's verdict: every class but the unexpected one passes (R86). -/
theorem completeProbe_some (cls : RespClass) (rx : Frame) (s : State) :
    completeProbe cls (some rx) s =
      .next { s with
        conn := decide (cls ≠ .unexpected), fsm := .idle
        trace := s.trace ++ [.ret (.bool (decide (cls ≠ .unexpected)))]
        conditions := s.conditions ++ (if cls = .unexpected then [.connectionCheckFailure] else []) } := by
  simp only [completeProbe, State.signalIf_eq]
  cases cls <;> rfl

/-- Settles O20: the response is received with its bytes, and completes the probe. -/
theorem probeAnswerSetsConnected : Obligations.ProbeAnswerSetsConnected := by
  intro s cls rx hx ho hlen
  have hxfer : rx.length = s.xferLen := by rw [hlen, xferLen_connect ho, pollFrame_len]
  rw [exec_resp, receive_of_length hx cls hxfer, complete_connect (s := s.emit (.xferResp (.ok rx))) ho,
    completeProbe_some, State.emit_trace, List.append_assoc]
  rfl

/-! ### `CONN` gates nothing -/

theorem exec_opInstr_of_busy {s : State} (hf : s.fsm ≠ .idle) (op : Op) (a b : Byte) :
    exec (op.instr a b) s = .refused .commandWhileBusy := by
  cases op <;> exact whenIdle_of_busy hf _

theorem runOp_of_busy {s : State} (hf : s.fsm ≠ .idle) (op : Op) (a b : Byte) (orc : Nat → Answer) :
    runOp op a b orc s = .refused .commandWhileBusy := by
  rw [runOp_eq, exec_opInstr_of_busy hf, andThen_refused]

theorem bigPoll_with_conn (orc : Nat → Answer) (s : State) (c : Bool) :
    bigPoll orc { s with conn := c } = { bigPoll orc s with conn := c } := by
  simp only [bigPoll, State.signalIf_eq]
  rfl

/-- Along the loop of `Handshake` no step reads or writes `CONN` (R111, R120). -/
theorem bigHandshake_with_conn (orc : Nat → Answer) (target : Bool) (fids : List Fid) (i : Nat) (s : State)
    (c : Bool) :
    bigHandshake orc target i fids { s with conn := c } = { bigHandshake orc target i fids s with conn := c } := by
  induction fids generalizing i s with
  | nil => rfl
  | cons fid fids ih =>
    have hfrom (s : State) : bigHandshakeFrom orc target i fid fids { s with conn := c } =
        { bigHandshakeFrom orc target i fid fids s with conn := c } := by
      rw [bigHandshakeFrom, bigHandshakeFrom]
      split
      · exact ih (i + 1) (bigXfer fid (orc i) s)
      · rfl
    cases i with
    | zero => exact hfrom s
    | succ i =>
      rw [bigHandshake_succ, bigHandshake_succ]
      exact hfrom (s.emit (.delay s.params.stepDelay))

theorem bigStep_with_conn {op : Op} (ho : op = .poll ∨ op = .enableAnalog ∨ op = .disableAnalog) (a b : Byte)
    (orc : Nat → Answer) (s : State) (c : Bool) :
    bigStep op a b orc { s with conn := c } = { bigStep op a b orc s with conn := c } := by
  rcases ho with rfl | rfl | rfl
  · exact bigPoll_with_conn orc (s.accept .poll a b) c
  · exact bigHandshake_with_conn orc true _ 0 (s.accept .enableAnalog a b) c
  · exact bigHandshake_with_conn orc false _ 0 (s.accept .disableAnalog a b) c

/-- Settles O57: from `IDLE` by the big-step rules, which the transitions agree with and which commute with any value of
`CONN`; elsewhere the command is refused whatever `CONN` is. -/
theorem connectedGatesNothing : Obligations.ConnectedGatesNothing := by
  intro op a b orc s c ho
  by_cases hf : s.fsm = .idle
  · rw [smallStepsAgreeWithBigStep op a b orc s hf, smallStepsAgreeWithBigStep op a b orc { s with conn := c } hf,
      bigStep_with_conn ho, mapNext_next]
  · rw [runOp_of_busy hf, runOp_of_busy (s := { s with conn := c }) hf, mapNext_refused]

end Sys2Proof.Machine

/-! SUPPORT. `POLL` (42_poll_discriminator.md): what its answer writes in each class, that a failed exchange is an
unexpected answer, and the laws of whole polls, from the big-step rule: a repeated answer changes nothing, and the
rumble operands only reach the two latches. -/

namespace Sys2Proof.Machine

/-! ### The answer to a poll -/

theorem flagDV_eq_decide (cls : RespClass) : flagDV cls = decide (cls = .digital ∨ cls = .analog) := by
  cases cls <;> rfl

theorem flagAV_eq_decide (cls : RespClass) (ame : Bool) :
    flagAV cls ame = decide (cls = .analog ∧ ame = true) := by
  cases cls <;> cases ame <;> rfl

/-- The string's completion of a poll writes `SNAP` and the records, ends in `IDLE`, and signals in the unexpected class
only (R94, R95, R129). -/
theorem completePoll_some {cls : RespClass} {rx : Frame} {s : State} {snap : Snap}
    (h : pollSnap s.params.analogMap s.ame cls rx s.snap = .ok snap) :
    completePoll cls (some rx) s =
      .next { s with
        snap := snap, fsm := .idle, trace := s.trace ++ [.ret (.snap snap)]
        conditions := s.conditions ++ (if cls = .unexpected then [.unexpectedResponse] else []) } := by
  simp only [completePoll, h, State.signalIf_eq]
  cases cls <;> rfl

/-- The buttons of a snapshot with `DV` set are the inverted bits of offsets 3 and 4 (R101, R102). -/
theorem buttonsOf_getD {rx : Frame} {x y : Byte} (hx : rx[3]? = some x) (hy : rx[4]? = some y) {b : Nat} (hb : b < 8) :
    (buttonsOf (rx.getD 3 0#8) (rx.getD 4 0#8))[b]? = some (!x.getLsbD b) ∧
      (buttonsOf (rx.getD 3 0#8) (rx.getD 4 0#8))[8 + b]? = some (!y.getLsbD b) := by
  rw [List.getD_eq_getElem?_getD, List.getD_eq_getElem?_getD, hx, hy]
  exact ⟨buttonsOf_getElem?_low x y hb, buttonsOf_getElem?_high x y hb⟩

/-- All sixteen analog bytes of a 21-byte string reach their registers under a legal map (R103). -/
theorem getElem?_eq_bigAnalog_get {p : Params} (h : p.wf = true) {rx : Frame} (hlen : rx.length = 21)
    (ana : Vector Byte 16) (i : Fin 16) :
    rx[5 + i.val]? = some ((bigAnalog p.analogMap rx ana).get (p.analogMap.get i)) := by
  have hi : 5 + i.val < rx.length := by omega
  rw [bigAnalog_get h, List.getD_eq_getElem _ _ hi, List.getElem?_eq_getElem hi]

/-- Settles O19: the response is received with its bytes, `pollSnap` is read off for them, and each field is written or
held with its flag. -/
theorem pollAnswerWritesTheSnapshot : Obligations.PollAnswerWritesTheSnapshot := by
  intro s cls rx hx ho hlen hwf
  have hpoll : rx.length = (pollFrame s.ame).len := by rw [hlen, pollFrame_len]
  have hrun := completePoll_some (s := s.emit (.xferResp (.ok rx)))
    (pollSnap_of_length (map := s.params.analogMap) hpoll cls s.snap)
  rw [exec_resp, receive_of_length hx cls (hpoll.trans (xferLen_poll ho).symm),
    complete_poll (s := s.emit (.xferResp (.ok rx))) ho, hrun]
  refine ⟨_, rfl, flagDV_eq_decide cls, flagAV_eq_decide cls s.ame, fun x y h3 h4 hdv b hb => ?_, fun hdv => ?_,
    fun hav i => ?_, fun hav => ?_, ?_⟩
  · simp only [show flagDV cls = true from hdv, if_true]
    exact buttonsOf_getD h3 h4 hb
  · simp [show flagDV cls = false from hdv]
  · have hav : flagAV cls s.ame = true := hav
    have hame : s.ame = true := by
      rw [flagAV_eq_decide, decide_eq_true_eq] at hav
      exact hav.2
    simp only [hav, if_true]
    exact getElem?_eq_bigAnalog_get hwf (by rw [hlen, if_pos hame]) _ i
  · simp [show flagAV cls s.ame = false from hav]
  · rw [State.emit_trace, List.append_assoc]
    rfl

/-! ### The unexpected answer and the failed exchange -/

theorem bigPollSnap_of_unexpected {rx : Frame} (h : bigClass rx = .unexpected) (map : Vector (Fin 16) 16) (ame : Bool)
    (old : Snap) : bigPollSnap map ame rx old = { old with dv := false, av := false } := by
  simp [bigPollSnap, h]

/-- An answer to a poll without a valid discriminator, a failed exchange among them, clears both flags, holds every
field and signals the unexpected response (R95, R96). -/
theorem onInput_poll_unexpected {r : Answer} {s : State} (hx : s.fsm = .xfer) (ho : s.curOp = .poll)
    (hc : bigClass (bigAnswer (pollFrame s.ame).len r) = .unexpected) :
    onInput (.xferResp r) s = .next { s with
      snap := { s.snap with dv := false, av := false }, fsm := .idle
      trace := s.trace ++ [.xferResp r, .ret (.snap { s.snap with dv := false, av := false })]
      conditions := s.conditions ++ [.unexpectedResponse] } := by
  simp only [onInput_poll_answer r hx ho, hc, bigPollSnap_of_unexpected hc, State.signalIf_eq, State.finish,
    State.emit, List.append_assoc]
  rfl

theorem bigClass_of_other {rx : Frame} {d : Byte} (hd : rx[1]? = some d) (hdig : d ≠ 0x41#8) (hana : d ≠ 0x73#8) :
    bigClass rx = .unexpected := by
  simp [bigClass, hd, hdig, hana]

/-- Settles O23: both answers are unexpected ones, and the state after such an answer names it in the recorded response
only. -/
theorem failedPollLooksUnexpected : Obligations.FailedPollLooksUnexpected := by
  intro s rx d hx ho hlen hd hdig hana
  have hbytes : bigAnswer (pollFrame s.ame).len (.ok rx) = rx :=
    bigAnswer_of_ok (bytes_eq_ok.2 ⟨rfl, hlen.trans (pollFrame_len s.ame).symm⟩)
  have hclass : bigClass (bigAnswer (pollFrame s.ame).len (.ok rx)) = .unexpected := by
    rw [hbytes, bigClass_of_other hd hdig hana]
  rw [step_offer, step_offer, onInput_poll_unexpected hx ho hclass,
    onInput_poll_unexpected (r := .fail) hx ho rfl]
  simp [Event.isResp]

/-- Settles O21: for a poll as an unexpected answer, for a probe as a check that does not pass. -/
theorem transportFaultsAreConverted : Obligations.TransportFaultsAreConverted := by
  refine fun s hx => ⟨fun ho => onInput_poll_unexpected hx ho rfl, fun ho => ?_⟩
  have hprobe : bigProbe (pollFrame s.ame) .fail = false := rfl
  simp only [step_offer, onInput_probe_answer .fail hx ho, hprobe, State.signalIf_eq, State.finish, State.emit,
    List.append_assoc]
  rfl

/-! ### A poll repeated -/

/-- A run of copies writes in a register a value that does not depend on what was there before (`some w`), or holds it
(`none`); the map need not be injective. -/
theorem exists_foldl_set_getElem (map : Vector (Fin 16) 16) (v : Fin 16 → Byte) (is : List (Fin 16)) (j : Nat)
    (hj : j < 16) :
    ∃ w : Option Byte, ∀ ana : Vector Byte 16,
      (is.foldl (fun acc i => acc.set (map.get i).val (v i) (map.get i).isLt) ana)[j] = w.getD ana[j] := by
  induction is with
  | nil => exact ⟨none, fun _ => rfl⟩
  | cons i is ih =>
    obtain ⟨w, hw⟩ := ih
    by_cases hi : (map.get i).val = j
    · exact ⟨some (w.getD (v i)), fun ana => by simp [hw, hi]⟩
    · exact ⟨w, fun ana => by rw [List.foldl_cons, hw, Vector.getElem_set_ne _ _ hi]⟩

/-- Copying the same bytes again changes no register, whatever the map. -/
theorem bigAnalog_idem (map : Vector (Fin 16) 16) (rx : Frame) (ana : Vector Byte 16) :
    bigAnalog map rx (bigAnalog map rx ana) = bigAnalog map rx ana := by
  ext1 j hj
  obtain ⟨w, hw⟩ : ∃ w : Option Byte, ∀ ana, (bigAnalog map rx ana)[j] = w.getD ana[j] :=
    exists_foldl_set_getElem map (fun i => rx.getD (5 + i.val) 0#8) (List.finRange 16) j hj
  rw [hw, hw]
  cases w <;> rfl

/-- The same bytes give the same snapshot again (R98). -/
theorem bigPollSnap_idem (map : Vector (Fin 16) 16) (ame : Bool) (rx : Frame) (old : Snap) :
    bigPollSnap map ame rx (bigPollSnap map ame rx old) = bigPollSnap map ame rx old := by
  cases hc : bigClass rx with
  | digital => simp [bigPollSnap, hc]
  | unexpected => simp [bigPollSnap, hc]
  | analog => cases ame <;> simp [bigPollSnap, hc, bigAnalog_idem]

/-- A poll from `IDLE` is the big-step rule on the accepted command (R90). -/
theorem runOp_poll {s : State} (hf : s.fsm = .idle) (a b : Byte) (orc : Nat → Answer) :
    runOp .poll a b orc s = .next (bigPoll orc (s.accept .poll a b)) :=
  smallStepsAgreeWithBigStep .poll a b orc s hf

theorem bigPoll_snap (orc : Nat → Answer) (s : State) :
    (bigPoll orc s).snap =
      bigPollSnap s.params.analogMap s.ame (bigAnswer (pollFrame s.ame).len (orc 0)) s.snap := by
  simp only [bigPoll, State.finish_snap, State.signalIf_snap]
  rfl

theorem bigPoll_ame (orc : Nat → Answer) (s : State) : (bigPoll orc s).ame = s.ame := by
  simp [bigPoll, bigXfer]

theorem bigPoll_params (orc : Nat → Answer) (s : State) : (bigPoll orc s).params = s.params := by
  simp [bigPoll, bigXfer]

/-- Settles O50: the first poll keeps the mode and the map, so that the second reads the same bytes in the same way. -/
theorem repeatedPollLeavesTheSnapshot : Obligations.RepeatedPollLeavesTheSnapshot := by
  intro a b a' b' orc orc' s hf hsame
  refine ⟨_, _, runOp_poll hf a b orc, runOp_poll rfl a' b' orc', ?_⟩
  simp only [bigPoll_snap, bigPoll_ame, bigPoll_params, State.accept_snap, State.accept_ame, State.accept_params,
    hsame, bigPollSnap_idem]

/-! ### The rumble operands -/

/-- The big-step rule of a poll does not read the two latches (R97). -/
theorem bigPoll_forgetOperands (orc : Nat → Answer) (s : State) :
    (bigPoll orc s).forgetOperands = bigPoll orc s.forgetOperands := by
  simp only [bigPoll, State.signalIf_eq]
  rfl

/-- Settles O51: from `IDLE` the two commands differ in the latches, which the poll does not read; elsewhere both are
refused. -/
theorem rumbleOperandsHaveNoEffect : Obligations.RumbleOperandsHaveNoEffect := by
  intro a b a' b' orc s
  by_cases hf : s.fsm = .idle
  · have hlatches : (s.accept .poll a b).forgetOperands = (s.accept .poll a' b').forgetOperands := rfl
    rw [runOp_poll hf, runOp_poll hf, mapNext_next, mapNext_next, bigPoll_forgetOperands, hlatches,
      ← bigPoll_forgetOperands]
  · rw [runOp_of_busy hf, runOp_of_busy hf]

end Sys2Proof.Machine

/-! SUPPORT. The extractor (43_extractor.md) through a whole poll: the snapshot that an answer of the exchange's length
leaves, the named fields it fills, and that encoding and extraction invert each other. -/

namespace Sys2Proof.Machine

/-! ### The snapshot that a received string leaves -/

/-- A poll that receives a string of its length ends with the snapshot of the big-step rule (R90). -/
theorem runOp_poll_received {s : State} (hf : s.fsm = .idle) {orc : Nat → Answer} {rx : Frame}
    (hrx : orc 0 = .ok rx) (hlen : rx.length = if s.ame then 21 else 5) (a b : Byte) :
    ∃ t, runOp .poll a b orc s = .next t ∧ t.snap = bigPollSnap s.params.analogMap s.ame rx s.snap := by
  have hbytes : bigAnswer (pollFrame s.ame).len (.ok rx) = rx :=
    bigAnswer_of_ok (bytes_eq_ok.2 ⟨rfl, hlen.trans (pollFrame_len s.ame).symm⟩)
  refine ⟨_, runOp_poll hf a b orc, ?_⟩
  rw [bigPoll_snap, hrx, State.accept_ame, State.accept_params, State.accept_snap, hbytes]

/-- Either valid discriminator, in either mode, sets `DV` and extracts the buttons (R94). -/
theorem bigPollSnap_of_valid {rx : Frame} {d : Byte} (hd : rx[1]? = some d) (hvalid : d = 0x41#8 ∨ d = 0x73#8)
    (map : Vector (Fin 16) 16) (ame : Bool) (old : Snap) :
    (bigPollSnap map ame rx old).dv = true ∧
      (bigPollSnap map ame rx old).btn = buttonsOf (rx.getD 3 0#8) (rx.getD 4 0#8) := by
  have hclass : bigClass rx = .digital ∨ bigClass rx = .analog := by
    rw [bigClass_of_getElem? hd]
    rcases hvalid with rfl | rfl
    · exact .inl rfl
    · exact .inr rfl
  simp [bigPollSnap, hclass]

/-- The analog discriminator in analog mode sets both flags and writes every field (R94). -/
theorem bigPollSnap_of_analog {rx : Frame} (hd : rx[1]? = some 0x73#8) (map : Vector (Fin 16) 16) (old : Snap) :
    bigPollSnap map true rx old =
      { dv := true, av := true, btn := buttonsOf (rx.getD 3 0#8) (rx.getD 4 0#8), ana := bigAnalog map rx old.ana } := by
  have hclass : bigClass rx = .analog := bigClass_of_getElem? hd
  simp [bigPollSnap, hclass]

/-- A poll in analog mode that receives a 21-byte analog string: the whole snapshot (R90, R94). -/
theorem runOp_poll_analog {s : State} (hf : s.fsm = .idle) (hame : s.ame = true) {orc : Nat → Answer} {rx : Frame}
    (hrx : orc 0 = .ok rx) (hlen : rx.length = 21) (hd : rx[1]? = some 0x73#8) (a b : Byte) :
    ∃ t, runOp .poll a b orc s = .next t ∧
      t.snap = { dv := true, av := true, btn := buttonsOf (rx.getD 3 0#8) (rx.getD 4 0#8)
                 ana := bigAnalog s.params.analogMap rx s.snap.ana } := by
  obtain ⟨t, hrun, hsnap⟩ := runOp_poll_received hf hrx (by rw [hame, if_pos rfl, hlen]) a b
  exact ⟨t, hrun, by rw [hsnap, hame, bigPollSnap_of_analog hd]⟩

/-! ### The named fields -/

/-- A button's source is the offset of its half of the register file, and its place in that half (R13, R101, R102). -/
theorem Button.source_eq (button : Button) :
    button.index.val < 8 ∧ button.source = (3, button.index.val) ∨
      8 ≤ button.index.val ∧ button.source = (4, button.index.val - 8) := by
  cases button <;> decide

/-- The extractor gives every named button the inverse of its source bit (R101, R102, R108). -/
theorem buttonsOf_get_index {rx : Frame} {button : Button} {v : Byte} (hv : rx[button.source.1]? = some v) :
    (buttonsOf (rx.getD 3 0#8) (rx.getD 4 0#8)).get button.index = !v.getLsbD button.source.2 := by
  rcases button.source_eq with ⟨hlow, hsource⟩ | ⟨hhigh, hsource⟩
  · rw [hsource] at hv ⊢
    rw [buttonsOf_low _ _ _ hlow, List.getD_eq_getElem?_getD, hv, Option.getD_some]
  · rw [hsource] at hv ⊢
    rw [buttonsOf_high _ _ _ hhigh, List.getD_eq_getElem?_getD (i := 4), hv, Option.getD_some]

/-- Settles O55: either discriminator has the buttons extracted, and the extractor inverts each button's source bit. -/
theorem namedButtonsAreActiveLow : Obligations.NamedButtonsAreActiveLow := by
  intro a b button rx v d s hf hlen hd hvalid hv
  obtain ⟨t, hrun, hsnap⟩ := runOp_poll_received (orc := fun _ => .ok rx) hf rfl hlen a b
  obtain ⟨hdv, hbtn⟩ := bigPollSnap_of_valid hd hvalid s.params.analogMap s.ame s.snap
  refine ⟨t, hrun, by rw [hsnap, hdv], ?_⟩
  rw [Snap.button, hsnap, hbtn, buttonsOf_get_index hv]

/-- The two entries of a legal `ANALOG_MAP` that the source gives (R103). -/
theorem analogMap_get_sourced {p : Params} (h : p.wf = true) : p.analogMap.get 2 = 2 ∧ p.analogMap.get 14 = 14 := by
  simp only [Params.wf, Bool.and_eq_true, beq_iff_eq] at h
  exact ⟨h.1.2, h.2⟩

theorem defaultAnalogMap_get (i : Fin 16) : Params.default.analogMap.get i = i := by
  revert i; decide

theorem Analog.defaultOffset_eq (f : Analog) : f.defaultOffset = 5 + f.index.val := by
  cases f <;> rfl

/-- Settles O56: the byte at offset `5 + i` is in `ANA[ANALOG_MAP(i)]`, and the map is known at the two sourced entries,
or everywhere if it is the default. -/
theorem namedAnalogFieldsComeFromTheirOffsets : Obligations.NamedAnalogFieldsComeFromTheirOffsets := by
  intro a b rx s hf hame hwf hlen hd
  obtain ⟨t, hrun, hsnap⟩ := runOp_poll_analog (orc := fun _ => .ok rx) hf hame rfl hlen hd a b
  have hfield : ∀ f : Analog, s.params.analogMap.get f.index = f.index →
      rx[5 + f.index.val]? = some (t.snap.analog f) := by
    intro f hmap
    rw [getElem?_eq_bigAnalog_get hwf hlen s.snap.ana f.index, hmap, Snap.analog, hsnap]
  obtain ⟨hleftX, hleft2⟩ := analogMap_get_sourced hwf
  refine ⟨t, hrun, by rw [hsnap], hfield .leftX hleftX, hfield .left2Pressure hleft2, fun hdefault f => ?_⟩
  rw [f.defaultOffset_eq]
  exact hfield f (by rw [hdefault, defaultAnalogMap_get])

/-! ### Encoding and extraction -/

theorem getLsbD_buttonByteA (btn : Vector Bool 16) {b : Nat} (h : b < 8) :
    (buttonByteA btn).getLsbD b = btn[b] := by
  rw [buttonByteA, getLsbD_packBits, Vector.getElem?_eq_getElem (by omega), decide_eq_true h, Bool.true_and,
    Option.getD_some]

theorem getLsbD_buttonByteB (btn : Vector Bool 16) {b : Nat} (h : b < 8) :
    (buttonByteB btn).getLsbD b = btn[8 + b] := by
  rw [buttonByteB, getLsbD_packBits, Vector.getElem?_eq_getElem (by omega), decide_eq_true h, Bool.true_and,
    Option.getD_some]

/-- The extractor gives back the buttons packed into the two bytes and inverted (R107, R109). -/
theorem buttonsOf_buttonBytes (btn : Vector Bool 16) :
    buttonsOf (buttonByteA btn ^^^ 0xFF#8) (buttonByteB btn ^^^ 0xFF#8) = btn := by
  rw [xor_ff_eq_not, xor_ff_eq_not]
  ext1 i hi
  by_cases hlow : i < 8
  · refine (buttonsOf_low _ _ ⟨i, hi⟩ hlow).trans ?_
    simp only [BitVec.getLsbD_not, getLsbD_buttonByteA btn hlow, hlow, decide_true, Bool.true_and, Bool.not_not]
  · have hhigh : i - 8 < 8 := by omega
    have hplace : 8 + (i - 8) = i := by omega
    refine (buttonsOf_high _ _ ⟨i, hi⟩ (Nat.not_lt.1 hlow)).trans ?_
    simp only [BitVec.getLsbD_not, getLsbD_buttonByteB btn hhigh, hhigh, hplace, decide_true, Bool.true_and,
      Bool.not_not]

/-- The extraction of the buttons loses nothing of the two bytes (R109). -/
theorem buttonsOf_injective {x y x' y' : Byte} (h : buttonsOf x y = buttonsOf x' y') : x = x' ∧ y = y' := by
  constructor
  · have hA := congrArg buttonByteA h
    rwa [buttonByteA_buttonsOf, buttonByteA_buttonsOf, BitVec.xor_left_inj] at hA
  · have hB := congrArg buttonByteB h
    rwa [buttonByteB_buttonsOf, buttonByteB_buttonsOf, BitVec.xor_left_inj] at hB

theorem encodeSnap_length (map : Vector (Fin 16) 16) (b0 b2 : Byte) (btn : Vector Bool 16) (ana : Vector Byte 16) :
    (encodeSnap map b0 b2 btn ana).length = 21 := by
  simp [encodeSnap]

theorem encodeSnap_getD_analog (map : Vector (Fin 16) 16) (b0 b2 : Byte) (btn : Vector Bool 16) (ana : Vector Byte 16)
    (i : Fin 16) : (encodeSnap map b0 b2 btn ana).getD (5 + i.val) 0#8 = ana.get (map.get i) := by
  rw [encodeSnap, List.getD_append_right _ _ _ _ (Nat.le_add_right 5 _)]
  simp

/-- A legal `ANALOG_MAP` reaches every register. -/
theorem analogMap_surjective {p : Params} (h : p.wf = true) : Function.Surjective p.analogMap.get :=
  Finite.surjective_of_injective fun _ _ => analogMap_injective h

/-- The extractor gives back the encoded analog bytes, whatever the registers held (R109). -/
theorem bigAnalog_encodeSnap {p : Params} (h : p.wf = true) (b0 b2 : Byte) (btn : Vector Bool 16)
    (ana old : Vector Byte 16) : bigAnalog p.analogMap (encodeSnap p.analogMap b0 b2 btn ana) old = ana := by
  ext1 j hj
  obtain ⟨i, hi⟩ := analogMap_surjective h ⟨j, hj⟩
  have hget := bigAnalog_get h (encodeSnap p.analogMap b0 b2 btn ana) old i
  rwa [encodeSnap_getD_analog, hi] at hget

/-- Settles O52: the encoded frame is an analog answer of the poll's length, and the extractor inverts its buttons and
its analog bytes. -/
theorem encodedSnapshotIsPolledBack : Obligations.EncodedSnapshotIsPolledBack := by
  intro a b b0 b2 btn ana orc s hf hame hwf hrx
  obtain ⟨t, hrun, hsnap⟩ := runOp_poll_analog hf hame hrx (encodeSnap_length ..) rfl a b
  have hbtn : buttonsOf ((encodeSnap s.params.analogMap b0 b2 btn ana).getD 3 0#8)
      ((encodeSnap s.params.analogMap b0 b2 btn ana).getD 4 0#8) = btn := buttonsOf_buttonBytes btn
  exact ⟨t, hrun, by rw [hsnap, hbtn, bigAnalog_encodeSnap hwf]⟩

/-- Settles O53: the buttons determine the bytes at offsets 3 and 4, and under a legal map each register the byte at its
offset. -/
theorem extractionIsInjective : Obligations.ExtractionIsInjective := by
  intro a b rx rx' s t t' hf hame hwf hlen hlen' hd hd' hrun hrun' heq k hk3 hk20
  obtain ⟨u, hu, hsnap⟩ := runOp_poll_analog (orc := fun _ => .ok rx) hf hame rfl hlen hd a b
  obtain ⟨u', hu', hsnap'⟩ := runOp_poll_analog (orc := fun _ => .ok rx') hf hame rfl hlen' hd' a b
  obtain rfl : t = u := Host.Outcome.next.inj (hrun.symm.trans hu)
  obtain rfl : t' = u' := Host.Outcome.next.inj (hrun'.symm.trans hu')
  rw [hsnap, hsnap', Snap.mk.injEq] at heq
  obtain ⟨-, -, hbtn, hana⟩ := heq
  by_cases hk : k < 5
  · obtain ⟨h3, h4⟩ := buttonsOf_injective hbtn
    have hbyte : rx.getD k 0#8 = rx'.getD k 0#8 := by
      obtain rfl | rfl : k = 3 ∨ k = 4 := by omega
      · exact h3
      · exact h4
    rw [List.getElem?_eq_getElem (by omega), List.getElem?_eq_getElem (by omega), ← List.getD_eq_getElem _ 0#8,
      ← List.getD_eq_getElem _ 0#8, hbyte]
  · obtain ⟨i, rfl⟩ : ∃ i : Fin 16, k = 5 + i.val := ⟨⟨k - 5, by omega⟩, by simp only; omega⟩
    rw [getElem?_eq_bigAnalog_get hwf hlen s.snap.ana i, hana, getElem?_eq_bigAnalog_get hwf hlen' s.snap.ana i]

end Sys2Proof.Machine

/-! SUPPORT. The configuration handshakes (44_config_handshake.md): that plain-data validators lose no policy, and the
two ends of a handshake's loop, from which the statements on whole handshakes follow. The loop runs through the steps
that validate, one after another, and ends by returning true where none is left or by aborting at the first that
does not. -/

namespace Sys2Proof.Machine

/-! ### Validators -/

/-- A policy is asked about finitely many responses only: no frame is longer than 21 bytes. -/
theorem finite_rejected (policy : Fid → Frame → Bool) :
    {x : Fid × Frame | x.2.length = x.1.len ∧ policy x.1 x.2 = false}.Finite := by
  refine ((List.finite_toSet Fid.all).prod (List.finite_length_le Byte 21)).subset ?_
  rintro ⟨fid, rx⟩ ⟨hlen, -⟩
  refine ⟨fid_mem_all fid, ?_⟩
  rcases fid_len_cases fid with h | h | h <;> simp [hlen, h]

/-- Settles O7: the validator lists the finitely many pairs of the right length that the policy rejects. -/
theorem everyValidationPolicyIsAValidator : Obligations.EveryValidationPolicyIsAValidator := by
  intro policy
  refine ⟨⟨(finite_rejected policy).toFinset.toList⟩, fun fid rx hlen => ?_⟩
  simp [verdict, hlen]

/-! ### The loop of a handshake -/

/-- The events of a handshake's step `i`: the delay before it, unless it is the first, and its exchange (R111). -/
def stepEvents (p : Params) (orc : Nat → Answer) (i : Nat) (fid : Fid) : List Event :=
  (if 0 < i then [.delay p.stepDelay] else []) ++ [.xferReq (rom p fid) fid.len, .xferResp (orc i)]

/-- The events of a handshake's steps from step `i` on, up to the `Ret`. -/
def handshakeEvents (p : Params) (orc : Nat → Answer) : Nat → List Fid → List Event
  | _, [] => []
  | i, fid :: fids => stepEvents p orc i fid ++ handshakeEvents p orc (i + 1) fids

theorem successTrace_eq (p : Params) (orc : Nat → Answer) (i : Nat) (fids : List Fid) :
    successTrace p orc i fids = handshakeEvents p orc i fids ++ [.ret (.bool true)] := by
  induction fids generalizing i with
  | nil => rfl
  | cons fid fids ih => rw [successTrace, ih, handshakeEvents, stepEvents, ← List.append_assoc]

/-- Record several interface events in the trace. -/
def State.emitAll (s : State) (es : List Event) : State := { s with trace := s.trace ++ es }

@[simp] theorem State.emitAll_params (s : State) (es : List Event) : (s.emitAll es).params = s.params := rfl

@[simp] theorem State.emitAll_nil (s : State) : s.emitAll [] = s := by
  rw [State.emitAll, List.append_nil]

@[simp] theorem State.emitAll_emitAll (s : State) (es es' : List Event) :
    (s.emitAll es).emitAll es' = s.emitAll (es ++ es') := by
  simp only [State.emitAll, List.append_assoc]

/-- The events of a step are all that its exchange writes. -/
theorem bigXfer_after_delay (orc : Nat → Answer) (i : Nat) (fid : Fid) (s : State) :
    bigXfer fid (orc i) (if 0 < i then s.emit (.delay s.params.stepDelay) else s) =
      s.emitAll (stepEvents s.params orc i fid) := by
  by_cases h : 0 < i <;> simp [stepEvents, bigXfer, State.emit, State.emitAll, h]

/-- A step that validates is followed by the rest of the loop (R111). -/
theorem bigHandshake_of_validated {orc : Nat → Answer} {i : Nat} {fid : Fid} {s : State}
    (h : bigValidated s.params.validator fid (orc i) = true) (target : Bool) (fids : List Fid) :
    bigHandshake orc target i (fid :: fids) s =
      bigHandshake orc target (i + 1) fids (s.emitAll (stepEvents s.params orc i fid)) := by
  rw [bigHandshake_cons]
  simp only [bigXfer_after_delay, State.emitAll_params, h, if_true]

/-- A step that does not validate ends the loop (R111, R116). -/
theorem bigHandshake_of_not_validated {orc : Nat → Answer} {i : Nat} {fid : Fid} {s : State}
    (h : bigValidated s.params.validator fid (orc i) = false) (target : Bool) (fids : List Fid) :
    bigHandshake orc target i (fid :: fids) s =
      { s with
        stepIx := 0#3, fsm := .idle, trace := s.trace ++ stepEvents s.params orc i fid ++ [.ret (.bool false)]
        conditions := s.conditions ++ [.configurationSequenceFailure (BitVec.ofNat 3 i)] } := by
  rw [bigHandshake_cons]
  simp only [bigXfer_after_delay, State.emitAll_params, h, Bool.false_eq_true, if_false]
  rfl

/-- Steps that all validate leave their events in the trace, and the loop is at the step after them. -/
theorem bigHandshake_append {orc : Nat → Answer} {pre : List Fid} {i : Nat} {s : State}
    (h : allValidate s.params.validator orc i pre = true) (target : Bool) (rest : List Fid) :
    bigHandshake orc target i (pre ++ rest) s =
      bigHandshake orc target (i + pre.length) rest (s.emitAll (handshakeEvents s.params orc i pre)) := by
  induction pre generalizing i s with
  | nil => simp [handshakeEvents]
  | cons fid pre ih =>
    obtain ⟨hfid, hpre⟩ := (Bool.and_eq_true _ _).mp h
    rw [List.cons_append, bigHandshake_of_validated hfid, ih (s := s.emitAll _) hpre, State.emitAll_emitAll,
      State.emitAll_params, handshakeEvents, List.length_cons, Nat.add_right_comm, Nat.add_assoc]

/-! ### The first step that does not validate -/

theorem allValidate_append (v : Validator) (orc : Nat → Answer) (i : Nat) (pre rest : List Fid) :
    allValidate v orc i (pre ++ rest) = (allValidate v orc i pre && allValidate v orc (i + pre.length) rest) := by
  induction pre generalizing i with
  | nil => rfl
  | cons fid pre ih =>
    rw [List.cons_append, allValidate, allValidate, ih, Bool.and_assoc, List.length_cons, Nat.add_right_comm,
      Nat.add_assoc]

theorem handshakeEvents_append (p : Params) (orc : Nat → Answer) (i : Nat) (pre rest : List Fid) :
    handshakeEvents p orc i (pre ++ rest) =
      handshakeEvents p orc i pre ++ handshakeEvents p orc (i + pre.length) rest := by
  induction pre generalizing i with
  | nil => rfl
  | cons fid pre ih =>
    rw [List.cons_append, handshakeEvents, handshakeEvents, ih, List.append_assoc, List.length_cons,
      Nat.add_right_comm, Nat.add_assoc]

/-- The steps before step `k` validate and the answer to step `k` does not (R111, R114). -/
theorem failsAt_iff {v : Validator} {orc : Nat → Answer} {fids : List Fid} {k : Nat} (hk : k < fids.length) :
    failsAt v orc fids k = true ↔
      allValidate v orc 0 (fids.take k) = true ∧ bigValidated v fids[k] (orc k) = false := by
  rw [failsAt, List.take_succ_eq_append_getElem hk, allValidate_append]
  cases allValidate v orc 0 (fids.take k) <;> simp [allValidate, hk.le]

/-- Steps that do not all validate have a first one that does not. -/
theorem exists_failsAt {v : Validator} {orc : Nat → Answer} {fids : List Fid}
    (h : allValidate v orc 0 fids = false) : ∃ k < fids.length, failsAt v orc fids k = true := by
  induction fids using List.reverseRecOn with
  | nil => cases h
  | append_singleton fids fid ih =>
    cases hpre : allValidate v orc 0 fids with
    | true =>
      refine ⟨fids.length, by simp, ?_⟩
      rw [failsAt, List.take_left, hpre, List.take_of_length_le (by simp), h]
      rfl
    | false =>
      obtain ⟨k, hk, hfails⟩ := ih hpre
      refine ⟨k, hk.trans (by simp), ?_⟩
      rwa [failsAt, List.take_append_of_le_length hk.le, List.take_append_of_le_length hk]

/-! ### The two ends of a handshake -/

theorem bigHandshake_of_allValidate {orc : Nat → Answer} {fids : List Fid} {s : State}
    (h : allValidate s.params.validator orc 0 fids = true) (target : Bool) :
    bigHandshake orc target 0 fids s =
      { s with
        ame := target, stepIx := 0#3, fsm := .idle, trace := s.trace ++ successTrace s.params orc 0 fids } := by
  have hloop := bigHandshake_append h target []
  rw [List.append_nil] at hloop
  rw [hloop, successTrace_eq, ← List.append_assoc]
  rfl

theorem bigHandshake_of_failsAt {orc : Nat → Answer} {fids : List Fid} {s : State} {k : Nat} (hk : k < fids.length)
    (h : failsAt s.params.validator orc fids k = true) (target : Bool) :
    bigHandshake orc target 0 fids s =
      { s with
        stepIx := 0#3, fsm := .idle
        trace := s.trace ++ handshakeEvents s.params orc 0 (fids.take (k + 1)) ++ [.ret (.bool false)]
        conditions := s.conditions ++ [.configurationSequenceFailure (BitVec.ofNat 3 k)] } := by
  obtain ⟨hbefore, hfail⟩ := (failsAt_iff hk).1 h
  have hlen : 0 + (fids.take k).length = k := by simp [hk.le]
  have hloop := bigHandshake_append hbefore target (fids[k] :: fids.drop (k + 1))
  rw [← List.drop_eq_getElem_cons hk, List.take_append_drop, hlen] at hloop
  rw [hloop, List.drop_eq_getElem_cons hk, bigHandshake_of_not_validated (s := s.emitAll _) hfail,
    List.take_succ_eq_append_getElem hk, handshakeEvents_append, hlen]
  simp [handshakeEvents, State.emitAll]

/-! ### Whole handshakes -/

theorem runOp_handshake {op : Op} {s : State} (hf : s.fsm = .idle) (ho : op = .enableAnalog ∨ op = .disableAnalog)
    (a b : Byte) (orc : Nat → Answer) :
    runOp op a b orc s =
      .next (bigHandshake orc (handshakeTarget op) 0 (handshakeSeq op) (s.accept op a b)) := by
  rw [smallStepsAgreeWithBigStep op a b orc s hf]
  rcases ho with rfl | rfl <;> rfl

theorem handshakeTarget_eq_decide (op : Op) : handshakeTarget op = decide (op = .enableAnalog) := by
  cases op <;> rfl

/-- A handshake whose steps all validate writes `AME` and returns true (R112, R113, R117). -/
theorem runOp_handshake_of_allValidate {op : Op} {orc : Nat → Answer} {s : State} (hf : s.fsm = .idle)
    (ho : op = .enableAnalog ∨ op = .disableAnalog)
    (h : allValidate s.params.validator orc 0 (handshakeSeq op) = true) (a b : Byte) :
    runOp op a b orc s = .next { s.accept op a b with
      ame := decide (op = .enableAnalog), stepIx := 0#3, fsm := .idle
      trace := s.trace ++ successTrace s.params orc 0 (handshakeSeq op) } := by
  rw [runOp_handshake hf ho, bigHandshake_of_allValidate (s := s.accept op a b) h, handshakeTarget_eq_decide]
  rfl

/-- A handshake that first fails at step `k` stops there, returns false and signals the step (R112, R116, R140). -/
theorem runOp_handshake_of_failsAt {op : Op} {orc : Nat → Answer} {s : State} {k : Nat} (hf : s.fsm = .idle)
    (ho : op = .enableAnalog ∨ op = .disableAnalog) (hk : k < (handshakeSeq op).length)
    (h : failsAt s.params.validator orc (handshakeSeq op) k = true) (a b : Byte) :
    runOp op a b orc s = .next { s.accept op a b with
      stepIx := 0#3, fsm := .idle
      trace := s.trace ++ handshakeEvents s.params orc 0 ((handshakeSeq op).take (k + 1)) ++ [.ret (.bool false)]
      conditions := s.conditions ++ [.configurationSequenceFailure (BitVec.ofNat 3 k)] } := by
  rw [runOp_handshake hf ho, bigHandshake_of_failsAt (s := s.accept op a b) hk h]
  rfl

/-- Settles O47: the steps all validate, or a first one does not. -/
theorem handshakeSucceedsIffEveryStepValidates : Obligations.HandshakeSucceedsIffEveryStepValidates := by
  intro op a b orc s hf ho
  cases hall : allValidate s.params.validator orc 0 (handshakeSeq op) with
  | true =>
    refine ⟨_, runOp_handshake_of_allValidate hf ho hall a b, rfl, ?_, rfl, rfl, rfl, rfl⟩
    simp [successTrace_eq]
  | false =>
    obtain ⟨k, hk, hfails⟩ := exists_failsAt hall
    exact ⟨_, runOp_handshake_of_failsAt hf ho hk hfails a b, rfl, List.getLast?_concat, rfl, rfl, rfl, rfl⟩

/-! ### The number of exchanges and delays -/

/-- Each step has one request. -/
theorem countP_isReq_handshakeEvents (p : Params) (orc : Nat → Answer) (i : Nat) (fids : List Fid) :
    (handshakeEvents p orc i fids).countP Event.isReq = fids.length := by
  induction fids generalizing i with
  | nil => rfl
  | cons fid fids ih =>
    rw [handshakeEvents, List.countP_append, ih, List.length_cons, Nat.add_comm]
    cases i <;> rfl

/-- Each step but step 0 has one delay. -/
theorem countP_isDelay_handshakeEvents_succ (p : Params) (orc : Nat → Answer) (i : Nat) (fids : List Fid) :
    (handshakeEvents p orc (i + 1) fids).countP Event.isDelay = fids.length := by
  induction fids generalizing i with
  | nil => rfl
  | cons fid fids ih => rw [handshakeEvents, List.countP_append, ih, List.length_cons, Nat.add_comm]; rfl

theorem countP_isDelay_handshakeEvents_zero (p : Params) (orc : Nat → Answer) (fids : List Fid) :
    (handshakeEvents p orc 0 fids).countP Event.isDelay = fids.length - 1 := by
  cases fids with
  | nil => rfl
  | cons fid fids =>
    rw [handshakeEvents, List.countP_append, countP_isDelay_handshakeEvents_succ]
    exact Nat.zero_add _

/-- Settles O48: the trace holds the events of steps 0 to `k`. -/
theorem failedHandshakeStopsAtTheFailingStep : Obligations.FailedHandshakeStopsAtTheFailingStep := by
  intro op a b orc s k hf ho hk h
  have hlen : ((handshakeSeq op).take (k + 1)).length = k + 1 := List.length_take_of_le hk
  refine ⟨_, runOp_handshake_of_failsAt hf ho hk h a b, ?_, ?_, List.getLast?_concat, rfl, rfl⟩
  · simp [countP_isReq_handshakeEvents, hlen, Event.isReq]
  · simp [countP_isDelay_handshakeEvents_zero, hlen, Event.isDelay]

theorem countP_isReq_successTrace (p : Params) (orc : Nat → Answer) (fids : List Fid) :
    (successTrace p orc 0 fids).countP Event.isReq = fids.length := by
  rw [successTrace_eq, List.countP_append, countP_isReq_handshakeEvents]
  rfl

theorem countP_isDelay_successTrace (p : Params) (orc : Nat → Answer) (fids : List Fid) :
    (successTrace p orc 0 fids).countP Event.isDelay = fids.length - 1 := by
  rw [successTrace_eq, List.countP_append, countP_isDelay_handshakeEvents_zero]
  rfl

/-- Settles O49: two successes, the second from the state that the first ends in, whose parameters are the same. -/
theorem enableThenDisableRestoresDigitalMode : Obligations.EnableThenDisableRestoresDigitalMode := by
  intro a b a' b' orc orc' s hf _ hen hdis
  have hrun := runOp_handshake_of_allValidate hf (.inl rfl) hen a b
  refine ⟨_, _, hrun, rfl, runOp_handshake_of_allValidate rfl (.inr rfl) (by exact hdis) a' b', rfl, rfl, ?_, ?_⟩
  · rw [List.countP_append, List.countP_append, countP_isReq_successTrace, countP_isReq_successTrace]
    rfl
  · rw [List.countP_append, List.countP_append, countP_isDelay_successTrace, countP_isDelay_successTrace]
    rfl

end Sys2Proof.Machine

/-! SUPPORT. The dispatch (45_dispatch_fsm.md): what each input event makes the block run, where each host operation
leaves it, the handshake's branches and delays, and what is refused. The equations of the events come first; that exactly
the accepted inputs are run is assembled from them. -/

namespace Sys2Proof.Machine

/-! ### Which instruction an event runs -/

theorem onXferResp_of_decodeRx {s : State} {r : Answer} {i : Instr} (hx : s.fsm = .xfer)
    (ho : s.curOp = .poll ∨ s.curOp = .connect) (hi : decodeRx s.xferLen r = .ok i) : onXferResp r s = exec i s := by
  have hrun : onPollResp r s = exec i s := by rw [onPollResp, hi]
  rcases ho with ho | ho <;> rw [onXferResp, if_pos hx, ho] <;> exact hrun

theorem onDelayDone_of_delay {s : State} {fid : Fid} (hf : s.fsm = .delay)
    (hfid : (handshakeSeq s.curOp)[(s.stepIx + 1#3).toNat]? = some fid) :
    onDelayDone s = exec fid.instr { s with stepIx := s.stepIx + 1#3 } := by
  simp only [onDelayDone, if_pos hf, hfid]

/-- Settles O8: the three events by their equations. -/
theorem stepRunsTheDecodedInstruction : Obligations.StepRunsTheDecodedInstruction := fun _ =>
  ⟨fun _ => rfl, fun _ _ => onXferResp_of_decodeRx, fun _ => onDelayDone_of_delay⟩

/-! ### Placing a host word -/

/-- A table row of 24 bits is a host word (R75). -/
theorem decodeTableWord_hostWord (w : HostWord) : decodeTableWord 24 w.toNat = some (decodeH19 w) := by
  rw [decodeTableWord, if_pos (by decide), if_pos w.isLt, BitVec.ofNat_toNat, BitVec.setWidth_eq]

/-- Whatever a host word decodes to, placing it presents it in `IDLE`. -/
theorem placeInstr_decodeH19 {s : State} (hf : s.fsm = .idle) (h0 : s.stepIx = 0#3) (w : HostWord) :
    placeInstr (decodeH19 w) w s = s.offer (.cmd w) := by
  have hs : s.offer (.cmd w) = { s with fsm := .idle, stepIx := 0#3, inbox := .cmd w :: s.inbox } := by
    rw [← hf, ← h0]; rfl
  rw [hs]
  rcases h19Op_cases w with ⟨op, -, hd⟩ | ⟨-, odd, hd⟩
  · rw [hd]; cases op <;> rfl
  · rw [hd]; rfl

/-- Settles O9: the placement is the offer of the word as a command. -/
theorem placedWordIsRunNext : Obligations.PlacedWordIsRunNext := by
  intro s w hf h0
  have hplace : s.withFetchWord 24 w.toNat = s.offer (.cmd w) := by
    rw [State.withFetchWord, placeWord, decodeTableWord_hostWord, BitVec.ofNat_toNat, BitVec.setWidth_eq]
    exact placeInstr_decodeH19 hf h0 w
  rw [hplace]
  rfl

/-! ### Host operations from `IDLE` -/

/-- Settles O11: in `IDLE` the command is accepted and finished in one step. -/
theorem disconnectCompletes : Obligations.DisconnectCompletes := by
  intro s a b hf
  rw [exec, execDisconnect, whenIdle_of_idle hf, hf]
  rfl

/-- The request of a poll or a probe, by the value of `AME` (R92). -/
theorem xferReq_pollFrame (p : Params) (ame : Bool) :
    Event.xferReq (rom p (pollFrame ame)) (pollFrame ame).len =
      if ame then .xferReq (rom p .pollA) 21 else .xferReq (rom p .pollD) 5 := by
  cases ame <;> rfl

/-- The state after a poll or a probe was accepted and its frame sent. -/
theorem sent_pollFrame_accept (op : Op) (a b : Byte) (s : State) :
    (s.accept op a b).sent (pollFrame s.ame) = { s with
      curOp := op, opa := a, opb := b, fsm := .xfer
      trace := s.trace ++ [if s.ame then .xferReq (rom s.params .pollA) 21 else .xferReq (rom s.params .pollD) 5] } := by
  rw [← xferReq_pollFrame]
  rfl

theorem execPoll_of_idle {s : State} (hf : s.fsm = .idle) (a b : Byte) :
    execPoll a b s = .next ((s.accept .poll a b).sent (pollFrame s.ame)) := by
  rw [execPoll, whenIdle_of_idle hf]
  exact sendFrame_of_selected (by simp [hf]) (selected_poll rfl)

theorem execConnect_of_probe {s : State} (hf : s.fsm = .idle) (hp : s.params.connectProbe = true) (a b : Byte) :
    execConnect a b s = .next ((s.accept .connect a b).sent (pollFrame s.ame)) := by
  rw [execConnect, whenIdle_of_idle hf]
  exact (if_pos hp).trans (sendFrame_of_selected (by simp [hf]) (selected_connect rfl))

theorem execConnect_of_no_probe {s : State} (hf : s.fsm = .idle) (hp : s.params.connectProbe = false) (a b : Byte) :
    execConnect a b s =
      .next (({ s.accept .connect a b with conn := false }.signal .connectionCheckFailure).finish (.bool false)) := by
  rw [execConnect, whenIdle_of_idle hf]
  exact if_neg (by simp [hp])

/-- Settles O13: the probe's frame is sent, or the verdict is returned at once. -/
theorem connectProbesOrFails : Obligations.ConnectProbesOrFails := by
  intro s a b hf
  refine ⟨fun hp => ?_, fun hp => ?_⟩
  · rw [← sent_pollFrame_accept]
    exact execConnect_of_probe hf hp a b
  · rw [exec, execConnect_of_no_probe hf hp, hf]
    rfl

/-- Settles O14: `POLL` sends the selected frame, and `POLL0` is `POLL 0, 0`. -/
theorem pollSendsTheSelectedFrame : Obligations.PollSendsTheSelectedFrame := by
  intro s hf
  have hpoll (a b : Byte) := (execPoll_of_idle hf a b).trans (congrArg _ (sent_pollFrame_accept .poll a b s))
  exact ⟨hpoll, hpoll 0#8 0#8⟩

theorem startHandshake_of_idle {s : State} {op : Op} (hf : s.fsm = .idle)
    (ho : op = .enableAnalog ∨ op = .disableAnalog) (a b : Byte) :
    startHandshake op a b s = .next ({ s.accept op a b with stepIx := 0#3 }.sent .enterCfg) := by
  rw [startHandshake, whenIdle_of_idle hf]
  exact sendFrame_of_selected (by simp [hf]) (by rcases ho with rfl | rfl <;> rfl)

/-- Settles O15: both handshakes open alike. -/
theorem handshakesStartWithEnterConfig : Obligations.HandshakesStartWithEnterConfig := fun _ a b hf =>
  ⟨startHandshake_of_idle hf (.inl rfl) a b, startHandshake_of_idle hf (.inr rfl) a b⟩

/-! ### The answer to a handshake step -/

theorem bigValidated_ok_of_length {v : Validator} {fid : Fid} {rx : Frame} (hlen : rx.length = fid.len) :
    bigValidated v fid (.ok rx) = verdict v fid rx :=
  bigValidated_of_bytes (bytes_eq_ok.2 ⟨rfl, hlen⟩)

/-- Settles O24: the check of the step is false on `Fail` and on a rejected answer, and elsewhere the validator's verdict;
the branch follows from it and from whether the step is the last. -/
theorem handshakeAnswerHasThreeBranches : Obligations.HandshakeAnswerHasThreeBranches := by
  intro s r fid hx ho hfid
  have hans := onInput_handshake_answer (r := r) hx ho hfid
  refine ⟨fun hbad => ?_, fun rx hr hlen hv => ?_⟩
  · have hcheck : bigValidated s.params.validator fid r = false := by
      rcases hbad with rfl | ⟨rx, rfl, hlen, hv⟩
      · rfl
      · rw [bigValidated_ok_of_length hlen, hv]
    rw [step_offer, hans, hcheck]
    simp [endHandshake, State.finish, State.signal, State.emit]
  · have hcheck : bigValidated s.params.validator fid r = true := by
      rw [hr, bigValidated_ok_of_length hlen, hv]
    rw [step_offer, hans, if_pos hcheck]
    refine ⟨fun hlast => ?_, fun hlast => ?_⟩
    · simp [hlast, endHandshake, State.finish, State.emit, handshakeTarget_eq_decide]
    · simp [hlast, State.emit]

/-! ### The end of a delay -/

/-- In `DELAY` a step follows in the table. -/
theorem succ_lt_of_sequenced_delay {s : State} (hf : s.fsm = .delay) (hs : s.sequenced = true) :
    s.stepIx.toNat + 1 < (handshakeSeq s.curOp).length := by
  cases ho : s.curOp with
  | enableAnalog | disableAnalog =>
    have hlt := hs
    simp only [State.sequenced, hf, ho, decide_eq_true_eq] at hlt
    simp only [handshakeSeq, List.length_cons, List.length_nil]
    omega
  | connect | disconnect | isConnected | poll => simp [State.sequenced, hf, ho] at hs

/-- The three bits of `step` hold every index of the tables. -/
theorem stepIx_succ_toNat {op : Op} {k : BitVec 3} (h : k.toNat + 1 < (handshakeSeq op).length) :
    (k + 1#3).toNat = k.toNat + 1 := by
  have hle : (handshakeSeq op).length ≤ 5 := by cases op <;> decide
  exact BitVec.toNat_add_of_lt (show k.toNat + 1 < 2 ^ 3 by omega)

theorem selected_handshake {s : State} {fid : Fid} (h : (handshakeSeq s.curOp)[s.stepIx.toNat]? = some fid) :
    s.selected = some fid := by
  cases ho : s.curOp with
  | enableAnalog | disableAnalog => rw [State.selected, ho]; rwa [ho] at h
  | connect | disconnect | isConnected | poll => simp [ho, handshakeSeq] at h

/-- Settles O26: the next step is in the table, and its frame is the one selected after the advance. -/
theorem delayDoneSendsTheNextFrame : Obligations.DelayDoneSendsTheNextFrame := by
  intro s hf hs
  have hlt := succ_lt_of_sequenced_delay hf hs
  have hix := stepIx_succ_toNat hlt
  obtain ⟨fid, hfid⟩ : ∃ fid, (handshakeSeq s.curOp)[s.stepIx.toNat + 1]? = some fid :=
    ⟨_, List.getElem?_eq_getElem hlt⟩
  have hnext : (handshakeSeq s.curOp)[(s.stepIx + 1#3).toNat]? = some fid := by rw [hix, hfid]
  refine ⟨fid, hfid, hix, by omega, ?_⟩
  rw [step_offer, onInput, onDelayDone_of_delay hf hnext, exec_frame]
  exact sendFrame_of_selected (by simp [hf]) (selected_handshake (s := { s with stepIx := s.stepIx + 1#3 }) hnext)

/-! ### What is refused -/

theorem decodeH19_of_namedOp {w : HostWord} (h : (h19Op w).toNat < 6) :
    ∃ op : Op, decodeH19 w = op.instr (h19A w) (h19B w) := by
  rcases h19Op_cases w with ⟨op, -, hd⟩ | ⟨h6, -⟩
  · exact ⟨op, hd⟩
  · omega

/-- Settles O28: the word decodes to an operation, which is refused outside `IDLE`. -/
theorem commandsWhileBusyAreRefused : Obligations.CommandsWhileBusyAreRefused := by
  intro s w hf hw
  obtain ⟨op, hd⟩ := decodeH19_of_namedOp hw
  rw [step_offer, onInput, onCmd, hd]
  exact exec_opInstr_of_busy hf op _ _

/-- Settles O30: each of the three events asks for its own value of `fsm` first. -/
theorem unaskedInputsAreRefused : Obligations.UnaskedInputsAreRefused := fun _ =>
  ⟨fun _ hf => if_neg hf, fun hf => if_neg hf, fun hf => if_neg hf⟩

/-! ### What is run -/

/-- In `IDLE` every operation is accepted (R122, R123). -/
theorem exec_opInstr_of_idle {s : State} (hf : s.fsm = .idle) (op : Op) (a b : Byte) :
    ∃ t, exec (op.instr a b) s = .next t := by
  cases op with
  | connect =>
    cases hp : s.params.connectProbe with
    | true => exact ⟨_, execConnect_of_probe hf hp a b⟩
    | false => exact ⟨_, execConnect_of_no_probe hf hp a b⟩
  | disconnect => exact ⟨_, disconnectCompletes s a b hf⟩
  | isConnected => exact ⟨_, isConnectedCompletes s a b hf⟩
  | poll => exact ⟨_, execPoll_of_idle hf a b⟩
  | enableAnalog => exact ⟨_, startHandshake_of_idle hf (.inl rfl) a b⟩
  | disableAnalog => exact ⟨_, startHandshake_of_idle hf (.inr rfl) a b⟩

/-- In `XFER` of a handshake the step in progress is in the table. -/
theorem exists_frame_of_sequenced_xfer {s : State} (hx : s.fsm = .xfer) (hs : s.sequenced = true)
    (ho : s.curOp = .enableAnalog ∨ s.curOp = .disableAnalog) :
    ∃ fid, (handshakeSeq s.curOp)[s.stepIx.toNat]? = some fid := by
  refine ⟨_, List.getElem?_eq_getElem ?_⟩
  rcases ho with ho | ho <;> simpa [State.sequenced, hx, ho, handshakeSeq] using hs

/-- Any answer to a step of a handshake is handled (R131). -/
theorem onInput_handshake_answer_next {s : State} {fid : Fid} (hx : s.fsm = .xfer)
    (ho : s.curOp = .enableAnalog ∨ s.curOp = .disableAnalog)
    (hfid : (handshakeSeq s.curOp)[s.stepIx.toNat]? = some fid) (r : Answer) :
    ∃ t, onInput (.xferResp r) s = .next t := by
  rw [onInput_handshake_answer hx ho hfid]
  split_ifs <;> exact ⟨_, rfl⟩

/-- Any answer to an exchange that the transitions leave outstanding is handled (R129 to R131, R146). -/
theorem onInput_answer_next {s : State} (hx : s.fsm = .xfer) (hs : s.sequenced = true) (r : Answer) :
    ∃ t, onInput (.xferResp r) s = .next t := by
  have hhandshake (ho : s.curOp = .enableAnalog ∨ s.curOp = .disableAnalog) :
      ∃ t, onInput (.xferResp r) s = .next t := by
    obtain ⟨fid, hfid⟩ := exists_frame_of_sequenced_xfer hx hs ho
    exact onInput_handshake_answer_next hx ho hfid r
  cases ho : s.curOp with
  | poll => exact ⟨_, onInput_poll_answer r hx ho⟩
  | connect => exact ⟨_, onInput_probe_answer r hx ho⟩
  | enableAnalog => exact hhandshake (.inl ho)
  | disableAnalog => exact hhandshake (.inr ho)
  | disconnect | isConnected => simp [State.sequenced, hx, ho] at hs

theorem accepts_of_onInput_next {s t : State} {e : Input} (h : onInput e s = .next t) : s.accepts e = true := by
  cases e with
  | cmd w =>
    obtain ⟨hf, op, hw, -⟩ := onCmd_next h
    simp [State.accepts, hf, hw, op_code_lt]
  | xferResp r => simp [State.accepts, (onXferResp_next h).1]
  | delayDone => simp [State.accepts, (onDelayDone_next h).1]
  | reset => simp [State.accepts, (onReset_next h).1]

theorem onInput_next_of_accepts {s : State} {e : Input} (hs : s.sequenced = true) (h : s.accepts e = true) :
    ∃ t, onInput e s = .next t := by
  cases e with
  | cmd w =>
    obtain ⟨hf, hw⟩ : s.fsm = .idle ∧ (h19Op w).toNat < 6 := by simpa [State.accepts] using h
    obtain ⟨op, hd⟩ := decodeH19_of_namedOp hw
    rw [onInput, onCmd, hd]
    exact exec_opInstr_of_idle hf op _ _
  | xferResp r => exact onInput_answer_next (beq_iff_eq.1 h) hs r
  | delayDone =>
    obtain ⟨fid, -, -, -, hnext⟩ := delayDoneSendsTheNextFrame s (beq_iff_eq.1 h) hs
    exact ⟨_, hnext⟩
  | reset => exact ⟨_, if_pos (beq_iff_eq.1 h)⟩

/-- Settles O29: an event that is run was accepted, in any state; an accepted one is run because a sequenced state has a
frame for its step. -/
theorem acceptedInputsAndOnlyTheyAreRun : Obligations.AcceptedInputsAndOnlyTheyAreRun := fun _ _ hs =>
  ⟨fun ⟨_, h⟩ => accepts_of_onInput_next h, onInput_next_of_accepts hs⟩

end Sys2Proof.Machine

/-! SUPPORT. Error conditions (60_exceptions.md): where each operation ends, as an equation, and from it that every
operation completes with one `Ret` and that at most one condition arises, with the effects of its row. -/

namespace Sys2Proof.Machine

/-! ### The end of each operation -/

theorem bigConnect_of_probe {s : State} (hp : s.params.connectProbe = true) (orc : Nat → Answer) :
    bigConnect orc s =
      let ok := bigProbe (pollFrame s.ame) (orc 0)
      ({ bigXfer (pollFrame s.ame) (orc 0) s with conn := ok }.signalIf (!ok) .connectionCheckFailure).finish
        (.bool ok) := by
  rw [bigConnect, if_neg (by simp [hp])]
  rfl

/-- The end of `CONNECT`, with or without the probe: `CONN` is the verdict, and only a false one is signalled (R86). -/
theorem exists_runOp_connect {s : State} (hf : s.fsm = .idle) (a b : Byte) (orc : Nat → Answer) :
    ∃ ok es, es.countP Event.isRet = 0 ∧ runOp .connect a b orc s = .next { s.accept .connect a b with
      conn := ok, fsm := .idle, trace := s.trace ++ es ++ [.ret (.bool ok)]
      conditions := s.conditions ++ if ok then [] else [.connectionCheckFailure] } := by
  have hrun : runOp .connect a b orc s = .next (bigConnect orc (s.accept .connect a b)) :=
    smallStepsAgreeWithBigStep .connect a b orc s hf
  rw [hrun]
  cases hp : s.params.connectProbe with
  | false =>
    refine ⟨false, [], rfl, ?_⟩
    rw [bigConnect, State.accept_params, if_pos hp, List.append_nil]
    rfl
  | true =>
    refine ⟨bigProbe (pollFrame s.ame) (orc 0),
      [.xferReq (rom s.params (pollFrame s.ame)) (pollFrame s.ame).len, .xferResp (orc 0)], rfl, ?_⟩
    rw [bigConnect_of_probe (s := s.accept .connect a b) hp, State.accept_ame]
    cases bigProbe (pollFrame s.ame) (orc 0) <;> simp [bigXfer, State.signalIf_eq, State.finish, State.emit]

theorem bigPoll_eq (orc : Nat → Answer) (s : State) :
    bigPoll orc s =
      let rx := bigAnswer (pollFrame s.ame).len (orc 0)
      let snap := bigPollSnap s.params.analogMap s.ame rx s.snap
      ({ bigXfer (pollFrame s.ame) (orc 0) s with snap := snap }.signalIf
        (bigClass rx == RespClass.unexpected) .unexpectedResponse).finish (.snap snap) := rfl

/-- The end of `POLL`: `SNAP` is written and returned, and only the unexpected class is signalled (R90, R129). -/
theorem runOp_poll_eq_next {s : State} (hf : s.fsm = .idle) (a b : Byte) (orc : Nat → Answer) {rx : Frame}
    (hrx : rx = bigAnswer (pollFrame s.ame).len (orc 0)) {snap : Snap}
    (hsnap : snap = bigPollSnap s.params.analogMap s.ame rx s.snap) :
    runOp .poll a b orc s = .next { s.accept .poll a b with
      snap := snap, fsm := .idle
      trace := s.trace ++ [.xferReq (rom s.params (pollFrame s.ame)) (pollFrame s.ame).len, .xferResp (orc 0)] ++
        [.ret (.snap snap)]
      conditions := s.conditions ++ if bigClass rx = .unexpected then [.unexpectedResponse] else [] } := by
  subst hrx hsnap
  rw [runOp_poll hf, bigPoll_eq]
  simp [bigXfer, State.signalIf_eq, State.finish, State.emit]

/-- No step of a handshake returns before the end of the loop (R111). -/
theorem countP_isRet_handshakeEvents (p : Params) (orc : Nat → Answer) (i : Nat) (fids : List Fid) :
    (handshakeEvents p orc i fids).countP Event.isRet = 0 := by
  induction fids generalizing i with
  | nil => rfl
  | cons fid fids ih =>
    rw [handshakeEvents, List.countP_append, ih]
    cases i <;> rfl

/-- The end of a handshake: `AME` is written where the result is true, and only a false one is signalled (R112, R113,
R116, R117). -/
theorem exists_runOp_handshake {op : Op} {s : State} (hf : s.fsm = .idle)
    (ho : op = .enableAnalog ∨ op = .disableAnalog) (a b : Byte) (orc : Nat → Answer) :
    ∃ ok i es, es.countP Event.isRet = 0 ∧ runOp op a b orc s = .next { s.accept op a b with
      ame := if ok then decide (op = .enableAnalog) else s.ame, stepIx := 0#3, fsm := .idle
      trace := s.trace ++ es ++ [.ret (.bool ok)]
      conditions := s.conditions ++ if ok then [] else [.configurationSequenceFailure i] } := by
  cases hall : allValidate s.params.validator orc 0 (handshakeSeq op) with
  | true =>
    refine ⟨true, 0#3, _, countP_isRet_handshakeEvents s.params orc 0 (handshakeSeq op), ?_⟩
    rw [runOp_handshake_of_allValidate hf ho hall, successTrace_eq, if_pos rfl, if_pos rfl, List.append_nil,
      ← List.append_assoc]
    rfl
  | false =>
    obtain ⟨k, hk, hfails⟩ := exists_failsAt hall
    exact ⟨false, BitVec.ofNat 3 k, _, countP_isRet_handshakeEvents s.params orc 0 ((handshakeSeq op).take (k + 1)),
      runOp_handshake_of_failsAt hf ho hk hfails a b⟩

theorem runOp_disconnect {s : State} (hf : s.fsm = .idle) (a b : Byte) (orc : Nat → Answer) :
    runOp .disconnect a b orc s = .next ({ s.accept .disconnect a b with conn := false }.finish .none) :=
  smallStepsAgreeWithBigStep .disconnect a b orc s hf

theorem runOp_isConnected {s : State} (hf : s.fsm = .idle) (a b : Byte) (orc : Nat → Answer) :
    runOp .isConnected a b orc s = .next ((s.accept .isConnected a b).finish (.bool s.conn)) :=
  smallStepsAgreeWithBigStep .isConnected a b orc s hf

/-! ### Completion -/

/-- Every operation from `IDLE` ends in `IDLE`, its `Ret` the last event and the only one, and leaves `step` at 0 where
it was 0 (R145, R146). -/
theorem runOp_completes {s : State} (hf : s.fsm = .idle) (op : Op) (a b : Byte) (orc : Nat → Answer) :
    ∃ t es v, runOp op a b orc s = .next t ∧ t.fsm = .idle ∧ (s.stepIx = 0#3 → t.stepIx = 0#3) ∧
      t.trace = s.trace ++ es ++ [.ret v] ∧ es.countP Event.isRet = 0 := by
  cases op with
  | connect =>
    obtain ⟨ok, es, hes, hrun⟩ := exists_runOp_connect hf a b orc
    exact ⟨_, es, _, hrun, rfl, id, rfl, hes⟩
  | disconnect => exact ⟨_, [], .none, runOp_disconnect hf a b orc, rfl, id, by simp, rfl⟩
  | isConnected => exact ⟨_, [], .bool s.conn, runOp_isConnected hf a b orc, rfl, id, by simp, rfl⟩
  | poll => exact ⟨_, _, _, runOp_poll_eq_next hf a b orc rfl rfl, rfl, id, rfl, rfl⟩
  | enableAnalog =>
    obtain ⟨ok, i, es, hes, hrun⟩ := exists_runOp_handshake hf (.inl rfl) a b orc
    exact ⟨_, es, _, hrun, rfl, fun _ => rfl, rfl, hes⟩
  | disableAnalog =>
    obtain ⟨ok, i, es, hes, hrun⟩ := exists_runOp_handshake hf (.inr rfl) a b orc
    exact ⟨_, es, _, hrun, rfl, fun _ => rfl, rfl, hes⟩

theorem cleanEntry_iff {s : State} : s.cleanEntry = true ↔ s.fsm = .idle ∧ s.stepIx = 0#3 := by
  simp [State.cleanEntry]

/-- Settles O44: the trace gains events that are no `Ret`, and then one that is. -/
theorem everyOperationEndsIdle : Obligations.EveryOperationEndsIdle := by
  intro op a b orc s hs
  obtain ⟨hf, hstep⟩ := cleanEntry_iff.1 hs
  obtain ⟨t, es, v, hrun, hidle, hkeep, htrace, hes⟩ := runOp_completes hf op a b orc
  refine ⟨t, hrun, cleanEntry_iff.2 ⟨hidle, hkeep hstep⟩, ⟨v, by rw [htrace, List.getLast?_concat]⟩, ?_⟩
  rw [htrace, List.countP_append, List.countP_append, hes]
  rfl

/-! ### The condition of an operation -/

theorem bigPollSnap_dv_of_expected {rx : Frame} (h : bigClass rx ≠ .unexpected) (map : Vector (Fin 16) 16) (ame : Bool)
    (old : Snap) : (bigPollSnap map ame rx old).dv = true := by
  cases hc : bigClass rx with
  | digital => simp [bigPollSnap, hc]
  | analog => simp [bigPollSnap, hc]
  | unexpected => exact absurd hc h

/-- A handshake's row of R144: no condition and the new `AME`, or the sequence failure with every register held. -/
theorem runOp_handshake_condition {op : Op} {s : State} (hf : s.fsm = .idle)
    (ho : op = .enableAnalog ∨ op = .disableAnalog) (a b : Byte) (orc : Nat → Answer) :
    ∃ t, runOp op a b orc s = .next t ∧ t.fsm = .idle ∧ (s.stepIx = 0#3 → t.stepIx = 0#3) ∧
      ((t.conditions = s.conditions ∧ t.ame = decide (op = .enableAnalog) ∧
          t.trace.getLast? = some (.ret (.bool true))) ∨
        ((∃ i, t.conditions = s.conditions ++ [.configurationSequenceFailure i]) ∧
          t.snap = s.snap ∧ t.conn = s.conn ∧ t.ame = s.ame ∧ t.trace.getLast? = some (.ret (.bool false)))) := by
  obtain ⟨ok, i, es, -, hrun⟩ := exists_runOp_handshake hf ho a b orc
  refine ⟨_, hrun, rfl, fun _ => rfl, ?_⟩
  cases ok with
  | true => exact .inl ⟨List.append_nil _, rfl, List.getLast?_concat⟩
  | false => exact .inr ⟨⟨i, rfl⟩, rfl, rfl, rfl, List.getLast?_concat⟩

/-- Settles O46: each operation's end says which condition it recorded, and records it where its check failed only. -/
theorem atMostOneConditionPerOperation : Obligations.AtMostOneConditionPerOperation := by
  intro op a b orc s hf
  cases op with
  | connect =>
    obtain ⟨ok, es, -, hrun⟩ := exists_runOp_connect hf a b orc
    refine ⟨_, hrun, rfl, id, ?_⟩
    cases ok with
    | true => exact .inl ⟨List.append_nil _, rfl, List.getLast?_concat⟩
    | false => exact .inr ⟨rfl, rfl, rfl, rfl, List.getLast?_concat⟩
  | disconnect => exact ⟨_, runOp_disconnect hf a b orc, rfl, id, .inl ⟨rfl, trivial⟩⟩
  | isConnected => exact ⟨_, runOp_isConnected hf a b orc, rfl, id, .inl ⟨rfl, trivial⟩⟩
  | poll =>
    refine ⟨_, runOp_poll_eq_next hf a b orc rfl rfl, rfl, id, ?_⟩
    by_cases hc : bigClass (bigAnswer (pollFrame s.ame).len (orc 0)) = .unexpected
    · rw [if_pos hc]
      exact .inr ⟨rfl, bigPollSnap_of_unexpected hc _ _ _, rfl, rfl, List.getLast?_concat⟩
    · rw [if_neg hc]
      exact .inl ⟨List.append_nil _, bigPollSnap_dv_of_expected hc _ _ _⟩
  | enableAnalog => exact runOp_handshake_condition hf (.inl rfl) a b orc
  | disableAnalog => exact runOp_handshake_condition hf (.inr rfl) a b orc

end Sys2Proof.Machine

/-! SUPPORT. Reset, waiting and the counts of events (70_reset_and_hazards.md): the block waits where no input has come,
a reset from `IDLE` constructs it again, and each operation's exchanges and delays are counted in the trace it leaves. -/

namespace Sys2Proof.Machine

/-! ### Waiting and reset -/

theorem run_succ_of_step_next {M : Host.Core} {s t : M.State} (h : M.step s = .next t) (k : Nat) :
    M.run (k + 1) s = M.run k t := by
  rw [Host.Core.run, h]

/-- Settles O10, by induction on the number of steps: each leaves the state, and so the empty inbox, as it is. -/
theorem blockWaitsWithoutInput : Obligations.BlockWaitsWithoutInput := by
  intro s k hs
  induction k with
  | zero => rfl
  | succ k ih => exact (run_succ_of_step_next (step_of_inbox_nil hs) k).trans ih

theorem onReset_of_idle {s : State} (hf : s.fsm = .idle) : onReset s = .next s.construct := if_pos hf

/-- Settles O35: the state after the reset is the constructed one, whose registers are known. -/
theorem resetFromIdleRestoresTheResetState : Obligations.ResetFromIdleRestoresTheResetState := fun s hf =>
  ⟨s.construct, onReset_of_idle hf, rfl, rfl, rfl, rfl, rfl, rfl, rfl, rfl, rfl, rfl⟩

/-! ### The exchanges and delays of each operation -/

/-- The trace of `CONNECT`: the probe's exchange, where there is a probe, and the `Ret` (R86). -/
theorem bigConnect_trace (orc : Nat → Answer) (s : State) :
    ∃ v, (bigConnect orc s).trace = s.trace ++
      (if s.params.connectProbe then
        [.xferReq (rom s.params (pollFrame s.ame)) (pollFrame s.ame).len, .xferResp (orc 0)] else []) ++
      [.ret v] := by
  cases hp : s.params.connectProbe with
  | false => exact ⟨.bool false, by simp [bigConnect, hp]⟩
  | true =>
    refine ⟨.bool (bigProbe (pollFrame s.ame) (orc 0)), ?_⟩
    simp [bigConnect_of_probe hp, bigXfer]

/-- A handshake that ends at step `k` has had `k + 1` exchanges and the `k` delays between them (R112, R113, R115). -/
theorem runOp_handshake_counts {op : Op} {s : State} (hf : s.fsm = .idle)
    (ho : op = .enableAnalog ∨ op = .disableAnalog) (a b : Byte) (orc : Nat → Answer) :
    ∃ t, ∃ k < (handshakeSeq op).length, runOp op a b orc s = .next t ∧
      t.trace.countP Event.isReq = s.trace.countP Event.isReq + (k + 1) ∧
      t.trace.countP Event.isDelay = s.trace.countP Event.isDelay + k := by
  cases hall : allValidate s.params.validator orc 0 (handshakeSeq op) with
  | true =>
    have hpos : 0 < (handshakeSeq op).length := by rcases ho with rfl | rfl <;> decide
    refine ⟨_, (handshakeSeq op).length - 1, Nat.sub_one_lt_of_lt hpos,
      runOp_handshake_of_allValidate hf ho hall a b, ?_, ?_⟩
    · rw [List.countP_append, countP_isReq_successTrace, Nat.sub_add_cancel hpos]
    · rw [List.countP_append, countP_isDelay_successTrace]
  | false =>
    obtain ⟨k, hk, hfails⟩ := exists_failsAt hall
    obtain ⟨t, hrun, hreq, hdelay, -⟩ := failedHandshakeStopsAtTheFailingStep op a b orc s k hf ho hk hfails
    exact ⟨t, k, hk, hrun, hreq, hdelay⟩

/-- Settles O45: each operation's events are counted in the trace that it leaves. -/
theorem exchangesAndDelaysAreBounded : Obligations.ExchangesAndDelaysAreBounded := by
  intro op a b orc s hf
  cases op with
  | connect =>
    obtain ⟨v, htrace⟩ := bigConnect_trace orc (s.accept .connect a b)
    have hrun : runOp .connect a b orc s = .next (bigConnect orc (s.accept .connect a b)) :=
      smallStepsAgreeWithBigStep .connect a b orc s hf
    refine ⟨_, _, _, hrun, ?_, ?_, rfl, rfl⟩
    · cases hp : s.params.connectProbe <;> simp [htrace, hp, List.countP_cons, Event.isReq]
    · cases hp : s.params.connectProbe <;> simp [htrace, hp, Event.isDelay]
  | disconnect =>
    exact ⟨_, 0, 0, runOp_disconnect hf a b orc, by simp [Event.isReq], by simp [Event.isDelay], rfl, rfl⟩
  | isConnected =>
    exact ⟨_, 0, 0, runOp_isConnected hf a b orc, by simp [Event.isReq], by simp [Event.isDelay], rfl, rfl⟩
  | poll =>
    refine ⟨_, 1, 0, runOp_poll_eq_next hf a b orc rfl rfl, ?_, ?_, rfl, rfl⟩
    · simp [List.countP_cons, Event.isReq]
    · simp [Event.isDelay]
  | enableAnalog =>
    obtain ⟨t, k, hk, hrun, hreq, hdelay⟩ := runOp_handshake_counts hf (.inl rfl) a b orc
    exact ⟨t, k + 1, k, hrun, hreq, hdelay, Nat.le_add_left 1 k, hk, rfl⟩
  | disableAnalog =>
    obtain ⟨t, k, hk, hrun, hreq, hdelay⟩ := runOp_handshake_counts hf (.inr rfl) a b orc
    exact ⟨t, k + 1, k, hrun, hreq, hdelay, Nat.le_add_left 1 k, hk, rfl⟩

end Sys2Proof.Machine
